-- ==== Sys2Proof/Word.lean ====
section
/-! DEFINITION. The word and byte types (00_scope.md R6, R8). -/

namespace Sys2Proof

/-- R6: an unsigned 32-bit integer. `+`, `-`, `^^^`, `&&&`, `<<<` and `>>>` on it are the operators of R6:
sums and differences wrap modulo 2^32, both shifts fill with zeros. -/
abbrev Word := BitVec 32

/-- R8: a byte, 0 to 255. -/
abbrev Byte := BitVec 8

end Sys2Proof
end

