-- ==== Sys2Proof/Machine/Constants.lean ====
section
/-! DEFINITION. The block's constants (00_scope.md R5, 10_state.md R39 to R41). HOST can neither read nor write them. -/

namespace Sys2Proof.Machine

/-- R39: KEY, the ASCII bytes of `troqkddmtroqkcdm`. -/
def key : Vector Byte 16 :=
  #v[0x74#8, 0x72#8, 0x6F#8, 0x71#8, 0x6B#8, 0x64#8, 0x64#8, 0x6D#8,
     0x74#8, 0x72#8, 0x6F#8, 0x71#8, 0x6B#8, 0x63#8, 0x64#8, 0x6D#8]

/-- R40: SUFFIX, the source's literal, byte 7 kept as given (U9, log 7). -/
def suffix : Vector Byte 16 :=
  #v[0xE8#8, 0xB1#8, 0x0C#8, 0x1F#8, 0x8B#8, 0xC3#8, 0x59#8, 0xBE#8,
     0xE8#8, 0xB1#8, 0x0C#8, 0x1F#8, 0x8B#8, 0xC3#8, 0x59#8, 0x5B#8]

/-- R41: DELTA, the round constant. -/
def delta : Word := 0x9E3779B9#32

/-- R41, R106: DEC_SUM0, the sum decipher starts from. -/
def decSum0 : Word := 0xC6EF3720#32

/-- R41: ROUNDS. Irreducible, so that no proof about a command unfolds its 32 rounds by accident; the kernel evaluates
it as it does any definition. -/
@[irreducible] def rounds : Nat := 32

end Sys2Proof.Machine
end

