-- ==== Sys2Proof/Machine/Operands.lean ====
section
/-! DEFINITION. The byte-order codec: the forms in which commands take their operands from byte registers and give
their results to them (41_codec_framing.md R140 to R144). -/

namespace Sys2Proof.Machine

/-- R8: the half-open slice `b[i : i + m]`. -/
def slice {n : Nat} (b : Vector Byte n) (i m : Nat) (h : i + m ≤ n := by omega) : Vector Byte m :=
  Vector.ofFn fun j => b[i + j.val]

/-- R140: the big-endian Word of four bytes. -/
def be32 (b : Vector Byte 4) : Word :=
  (b[0].setWidth 32 <<< 24) ||| (b[1].setWidth 32 <<< 16) ||| (b[2].setWidth 32 <<< 8) ||| b[3].setWidth 32

/-- R141: the four big-endian bytes of a Word, `[w[31:24], w[23:16], w[15:8], w[7:0]]`. -/
def bytesBe (w : Word) : Vector Byte 4 :=
  #v[w.extractLsb' 24 8, w.extractLsb' 16 8, w.extractLsb' 8 8, w.extractLsb' 0 8]

/-- R142: the little-endian Word of four bytes. -/
def le32 (b : Vector Byte 4) : Word :=
  b[0].setWidth 32 ||| (b[1].setWidth 32 <<< 8) ||| (b[2].setWidth 32 <<< 16) ||| (b[3].setWidth 32 <<< 24)

/-- Four key Words. -/
abbrev Key := Vector Word 4

/-- R143: KEYW, KEY as four little-endian Words, in order. -/
def keyWords : Key :=
  #v[le32 (slice key 0 4), le32 (slice key 4 4), le32 (slice key 8 4), le32 (slice key 12 4)]

/-- R144: block parse. -/
def block (b : Vector Byte 8) : Word × Word := (be32 (slice b 0 4), be32 (slice b 4 4))

/-- R144: block serialise. -/
def unblock (v0 v1 : Word) : Vector Byte 8 := (bytesBe v0 ++ bytesBe v1 : Vector Byte (4 + 4))

/-- R8: the 24 bytes `head || tail`. -/
def join24 (head : Vector Byte 8) (tail : Vector Byte 16) : Vector Byte 24 := (head ++ tail : Vector Byte (8 + 16))

end Sys2Proof.Machine
end

