-- ==== Sys2Proof/Syntax.lean ====
section
/-! DEFINITION. The commands of the block: one constructor per row of the opcode table (30_encoding.md R81). -/

namespace Sys2Proof

/-- R81, R88: the four commands of TEACORE-CMD v1. R83: none has an operand; each works on fixed registers. -/
inductive Instr where
  /-- ENCODE, 0x00000001: encipher IN[0..7] and append SUFFIX (R147). -/
  | encode
  /-- DECODE, 0x00000002: check the length and SUFFIX, decipher IN[0..7] (R148). -/
  | decode
  /-- ENCIPHER, 0x00000003: encipher the Block in V0, V1 (R110). -/
  | encipher
  /-- DECIPHER, 0x00000004: decipher the Block in V0, V1 (R111). -/
  | decipher
  deriving DecidableEq, Repr

end Sys2Proof
end

