-- ==== Sys2Proof/Decode.lean ====
section
/-! DEFINITION. The decoder of command words, total on every 32-bit word, and the encoder after it
(30_encoding.md R80 to R82, R87). -/

namespace Sys2Proof

/-- One row of the opcode table: the word selects `instr` when its bits under `mask` are `pattern`. -/
structure OpcodeRow where
  mask : Word
  pattern : Word
  instr : Instr
  deriving DecidableEq, Repr

/-- R81: the legal command words. R80: a decoder compares all 32 bits. -/
def opcodeTable : List OpcodeRow :=
  [ { mask := 0xFFFFFFFF#32, pattern := 0x00000001#32, instr := .encode },
    { mask := 0xFFFFFFFF#32, pattern := 0x00000002#32, instr := .decode },
    { mask := 0xFFFFFFFF#32, pattern := 0x00000003#32, instr := .encipher },
    { mask := 0xFFFFFFFF#32, pattern := 0x00000004#32, instr := .decipher } ]

/-- Why a word is rejected. -/
inductive DecodeError where
  /-- R82: the word is in no row of the table. -/
  | illegalCommandWord
  deriving DecidableEq, Repr

/-- R87: decoding is a lookup of all 32 bits in the table of R81; a word not in the table is illegal (R82). -/
def decode (w : Word) : Except DecodeError Instr :=
  match opcodeTable.find? (fun r => w &&& r.mask == r.pattern) with
  | some r => .ok r.instr
  | none => .error .illegalCommandWord

/-- R81: the command word of each command. -/
def encode : Instr → Word
  | .encode => 0x00000001#32
  | .decode => 0x00000002#32
  | .encipher => 0x00000003#32
  | .decipher => 0x00000004#32

/-- The decoder's answer for an instruction numbered as the opcode table numbers it. R87: a command word is exactly
32 bits, carried by one bus write, so the low `nbits` bits of `w` are the word and a longer number is no word. -/
def decodeTableWord (nbits w : Nat) : Option Instr :=
  if w % 2 ^ nbits < 2 ^ 32 then (decode (BitVec.ofNat 32 (w % 2 ^ nbits))).toOption else none

end Sys2Proof
end

