-- ==== Sys2Proof/Config.lean ====
section
/-! DEFINITION. What the spec leaves open: parameters marked OPEN (R5) and the free values of every UNSPEC (R9).
Each is a constant without a body, so no proof can see what it is. -/

namespace Sys2Proof.Config

/-- R68, U4: WINDOW_BASE, the bus address of window offset 0, a platform parameter (log 8). -/
opaque windowBase : Nat

/-- R239, U3: LATENCY(op), any finite value, possibly another at each run of the command: how many HOST steps
fall between the acceptance of `op` and its completion, at a draw (log 3). -/
opaque latency (op : Instr) (draw : Nat) : Nat

/-- R53, R236, U2: the fresh 32-bit value that a read of V0, V1, OUT_LEN or OUT[i] returns while BUSY (log 2). -/
opaque unspecRead (draw : Nat) : Word

/-- R23, R230, U1: the value reset leaves in V0 (log 1). -/
opaque unspecV0 (draw : Nat) : Word

/-- R24, R230, U1: the value reset leaves in V1 (log 1). -/
opaque unspecV1 (draw : Nat) : Word

/-- R25, R230, U1: the value reset leaves in IN[i] (log 1). -/
opaque unspecIn (draw i : Nat) : Byte

/-- R27, R230, U1: the value reset leaves in OUT[i] (log 1). -/
opaque unspecOut (draw i : Nat) : Byte

end Sys2Proof.Config
end

