-- ==== Sys2Proof/Machine/Bus.lean ====
section
/-! DEFINITION. What HOST does to the block: bus accesses by byte offset in the window, the POLL line and reset
(10_state.md R20, 20_memory.md R50, R51, R52, 30_encoding.md R89). -/

namespace Sys2Proof.Machine

/-- R89: the name a host program gives a value it reads; R90: `READ_OUT n -> r` names its values r[0], r[1], … -/
inductive HostName where
  | var (n : Nat)
  | elem (r i : Nat)
  deriving DecidableEq, Repr

/-- One action of HOST. An access carries its width in bytes, so that the accesses R51 excludes can be refused by name. -/
inductive HostAction where
  /-- `name := MemRead(off, width)`: the RD line of R89. -/
  | read (off width : Nat) (name : HostName)
  /-- `MemWrite(off, width, v)`: the WR line of R89. -/
  | write (off width : Nat) (v : Word)
  /-- The POLL line of R89: read `off` again and again until the value under `mask` is `val`. -/
  | poll (off : Nat) (mask val : Word)
  /-- The reset action of R230. -/
  | reset
  deriving DecidableEq, Repr

/-- R50: WINDOW_BYTES, the size of the window. -/
def windowBytes : Nat := 4096

/-- R51: every HOST access is a 32-bit access at an aligned offset inside the window. -/
def legalAccess (off width : Nat) : Bool := width == 4 && off % 4 == 0 && decide (off ≤ 0xFFC)

/-- R52: the registers of the window. -/
inductive Reg where
  | cmd
  | status
  | inLen
  | outLen
  | v0
  | v1
  | inByte (i : Fin 24)
  | outByte (i : Fin 24)
  | reserved
  deriving DecidableEq, Repr

/-- R52: the register at a byte offset. -/
def regAt (off : Nat) : Reg :=
  if off = 0x000 then .cmd
  else if off = 0x004 then .status
  else if off = 0x008 then .inLen
  else if off = 0x00C then .outLen
  else if off = 0x010 then .v0
  else if off = 0x014 then .v1
  else if h : 0x100 ≤ off ∧ off < 0x160 ∧ off % 4 = 0 then .inByte ⟨(off - 0x100) / 4, by omega⟩
  else if h : 0x200 ≤ off ∧ off < 0x260 ∧ off % 4 = 0 then .outByte ⟨(off - 0x200) / 4, by omega⟩
  else .reserved

/-- R52: the offset of IN[i]. -/
def inOffset (i : Nat) : Nat := 0x100 + 4 * i

/-- R52: the offset of OUT[i]. -/
def outOffset (i : Nat) : Nat := 0x200 + 4 * i

end Sys2Proof.Machine
end

