-- ==== Sys2Proof/Machine/State.lean ====
section
/-! DEFINITION. The state of the machine: the block's record of 10_state.md R21, and beside it HOST's pending actions
and the open choices, as plain data. The block has no memory (R50), so State holds no list of memory cells (log 6). -/

namespace Sys2Proof.Machine

/-- R34: the error codes. 4 to 7 are never produced (U7), so the type has no name for them. -/
inductive ECode where
  | none
  | invalidLength
  | formatMismatch
  | illegalCommand
  deriving DecidableEq, Repr

/-- R30: the fields of STATUS. Its other bits have no storage (R36). -/
structure Status where
  /-- R31, bit 0. -/
  busy : Bool
  /-- R32, bit 1. -/
  done : Bool
  /-- R33, bit 2. -/
  err : Bool
  /-- R34, bits 6:4. -/
  ecode : ECode
  /-- R35, bit 8. -/
  wbusy : Bool
  deriving DecidableEq, Repr

/-- R30: STATUS after reset, 0x00000000. -/
def Status.zero : Status := { busy := false, done := false, err := false, ecode := .none, wbusy := false }

/-- R37: whether a command is in flight, and which. -/
inductive Phase where
  | idle
  | busy (op : Instr)
  deriving DecidableEq, Repr

/-- The whole state. The first eight fields are the record of R21. The last five are the model's own: HOST and
the choices the spec leaves open (log 2, 3, 5). -/
structure State where
  /-- R23. -/
  v0 : Word
  /-- R24. -/
  v1 : Word
  /-- R25: IN[0..23]. -/
  inBuf : Vector Byte 24
  /-- R26: IN_LEN. -/
  inLen : Word
  /-- R27: OUT[0..23]. -/
  outBuf : Vector Byte 24
  /-- R28: OUT_LEN. -/
  outLen : Word
  /-- R30 to R36. -/
  status : Status
  /-- R37: PHASE. -/
  phase : Phase
  /-- R20, R62: what HOST has still to do, first to last. -/
  program : List HostAction
  /-- R89: what HOST's RD lines returned, the newest first. -/
  reads : List (HostName × Word)
  /-- R239: latencies of the commands to come, as far as the outside has fixed them. Where the list is empty the
  latency is a free value. -/
  givenLatencies : List Nat
  /-- R85, R239: how many HOST steps still fall before the completion of the command in flight. -/
  delay : Nat
  /-- The counter that free values are applied to. -/
  draws : Nat
  deriving DecidableEq, Repr

/-- The block takes no trap and nothing stops it (R200): there is no fault (log 10). -/
inductive Fault
  deriving DecidableEq, Repr

/-- Why a step has no meaning. -/
inductive Refusal where
  /-- Raised by a command's arm of exec that has no meaning yet. Safe: the machine stops. -/
  | notModelled (mnemonic : String)
  /-- R51: HOST's access is not 32 bits wide. Raised by the HOST step. Safe for hosts that keep to R51 (log 9). -/
  | accessWidth
  /-- R51: HOST's access is at an offset that is no multiple of 4. Raised by the HOST step. Safe likewise (log 9). -/
  | accessMisaligned
  /-- R51: HOST's access is outside the window. Raised by the HOST step. Safe likewise (log 9). -/
  | accessOutsideWindow
  deriving DecidableEq, Repr

/-- R230: the machine right after reset. What R230 leaves UNSPEC is free values at draw 0 (log 1). HOST has nothing
to do yet: no program is in the machine until the outside brings one (log 4, 5). -/
def State.reset : State where
  v0 := Config.unspecV0 0
  v1 := Config.unspecV1 0
  inBuf := Vector.ofFn fun i => Config.unspecIn 0 i
  inLen := 0
  outBuf := Vector.ofFn fun i => Config.unspecOut 0 i
  outLen := 0
  status := .zero
  phase := .idle
  program := []
  reads := []
  givenLatencies := []
  delay := 0
  draws := 1

end Sys2Proof.Machine
end

