-- ==== Sys2Proof/Machine/Flags.lean ====
section
/-! DEFINITION. STATUS: its word and every way it changes (10_state.md R30 to R36). The block has no other flags (R42). -/

namespace Sys2Proof.Machine

/-- R205: the kinds of error. -/
inductive ErrorKind where
  /-- R201. -/
  | invalidLength
  /-- R202. -/
  | formatMismatch
  /-- R203. -/
  | illegalCommand
  deriving DecidableEq, Repr

/-- R201 to R203: the code an error records. -/
def ErrorKind.code : ErrorKind → ECode
  | .invalidLength => .invalidLength
  | .formatMismatch => .formatMismatch
  | .illegalCommand => .illegalCommand

/-- R34: the number in bits 6:4. -/
def ECode.bits : ECode → Word
  | .none => 0
  | .invalidLength => 1
  | .formatMismatch => 2
  | .illegalCommand => 3

/-- A flag as the number 0 or 1. -/
def flagBit (b : Bool) : Word := if b then 1 else 0

/-- R53: the value a read of STATUS returns, `WBUSY << 8 | ECODE << 4 | ERR << 2 | DONE << 1 | BUSY`. -/
def Status.toWord (st : Status) : Word :=
  (flagBit st.wbusy <<< 8) ||| (st.ecode.bits <<< 4) ||| (flagBit st.err <<< 2) ||| (flagBit st.done <<< 1) |||
    flagBit st.busy

/-- R84: STATUS when a command is accepted. -/
def Status.accepted (st : Status) : Status :=
  { st with busy := true, done := false, err := false, ecode := .none }

/-- R86: STATUS after a success completion. -/
def Status.succeeded (st : Status) : Status :=
  { st with busy := false, done := true, err := false, ecode := .none }

/-- R205: STATUS after an error completion. -/
def Status.failed (e : ErrorKind) (st : Status) : Status :=
  { st with busy := false, done := false, err := true, ecode := e.code }

/-- R204: STATUS after a busy-write event. -/
def Status.writeDropped (st : Status) : Status := { st with wbusy := true }

/-- R35, R54: STATUS after HOST writes `v` to it: bit 8 clears WBUSY, the other bits are ignored. -/
def Status.writeOneToClear (v : Word) (st : Status) : Status :=
  if v.getLsbD 8 then { st with wbusy := false } else st

end Sys2Proof.Machine
end

