-- ==== Sys2Proof/Machine/Ops.lean ====
section
/-! DEFINITION. The named operations on registers: the completions, the issue of a command word, the bus read and
write, and reset. -/

namespace Sys2Proof.Machine

/-- R86: success completion (the result writes are the command's own). -/
def succeed (s : State) : State := { s with status := s.status.succeeded, phase := .idle }

/-- R205: error completion, `raise e`: the one way an error is recorded. It takes no trap (R200), and there is no
return from it (R209): the next accepted command clears ERR and ECODE. -/
def raiseError (e : ErrorKind) (s : State) : State := { s with status := s.status.failed e, phase := .idle }

/-- R239: how many HOST steps will fall before the completion of a command accepted now: what the outside has fixed,
or else a free value (log 3). -/
def nextLatency (op : Instr) (s : State) : Nat :=
  match s.givenLatencies with
  | n :: _ => n
  | [] => Config.latency op s.draws

/-- R84: a command is accepted. -/
def accept (op : Instr) (s : State) : State :=
  { s with
    phase := .busy op
    status := s.status.accepted
    delay := nextLatency op s
    givenLatencies := s.givenLatencies.tail
    draws := s.draws + 1 }

/-- R84: issue of the command word `w`, in a state whose PHASE is IDLE. -/
def issue (w : Word) (s : State) : State :=
  match decode w with
  | .ok op => accept op s
  | .error .illegalCommandWord => raiseError .illegalCommand s

/-- R204: the busy-write event; the written value is discarded. -/
def busyWrite (s : State) : State := { s with status := s.status.writeDropped }

/-- R54: the effect of a write to CMD, IN_LEN, V0, V1 or IN[i]: `done` while IDLE, the busy-write event while BUSY. -/
def whenIdle (s done : State) : State :=
  match s.phase with
  | .idle => done
  | .busy _ => busyWrite s

/-- R53: what a register holds, as the word the bus reads. -/
def regValue (r : Reg) (s : State) : Word :=
  match r with
  | .cmd => 0
  | .status => s.status.toWord
  | .inLen => s.inLen
  | .outLen => s.outLen
  | .v0 => s.v0
  | .v1 => s.v1
  | .inByte i => (s.inBuf[i]).setWidth 32
  | .outByte i => (s.outBuf[i]).setWidth 32
  | .reserved => 0

/-- R53, R236: the registers whose read is UNSPEC while BUSY. -/
def Reg.holdsResult : Reg → Bool
  | .cmd => false
  | .status => false
  | .inLen => false
  | .outLen => true
  | .v0 => true
  | .v1 => true
  | .inByte _ => false
  | .outByte _ => true
  | .reserved => false

/-- R53: MemRead(off, 4). No block register changes (R61); an UNSPEC read takes a fresh draw. -/
def memRead (off : Nat) (s : State) : Word × State :=
  match s.phase with
  | .idle => (regValue (regAt off) s, s)
  | .busy _ =>
    if (regAt off).holdsResult then (Config.unspecRead s.draws, { s with draws := s.draws + 1 })
    else (regValue (regAt off) s, s)

/-- R54: MemWrite(off, 4, v). R55: a byte register takes `v[7:0]`. R56: OUT_LEN, OUT[i] and reserved offsets
ignore it. -/
def memWrite (off : Nat) (v : Word) (s : State) : State :=
  match regAt off with
  | .status => { s with status := s.status.writeOneToClear v }
  | .cmd => whenIdle s (issue v s)
  | .inLen => whenIdle s { s with inLen := v }
  | .v0 => whenIdle s { s with v0 := v }
  | .v1 => whenIdle s { s with v1 := v }
  | .inByte i => whenIdle s { s with inBuf := s.inBuf.set i (v.setWidth 8) }
  | .outLen => s
  | .outByte _ => s
  | .reserved => s

/-- R230, R231: the reset action. A command in flight is abandoned. -/
def takeReset (s : State) : State :=
  { s with
    phase := .idle
    status := .zero
    inLen := 0
    outLen := 0
    v0 := Config.unspecV0 s.draws
    v1 := Config.unspecV1 s.draws
    inBuf := Vector.ofFn fun i => Config.unspecIn s.draws i
    outBuf := Vector.ofFn fun i => Config.unspecOut s.draws i
    delay := 0
    draws := s.draws + 1 }

end Sys2Proof.Machine
end

