-- ==== Sys2Proof/Machine/Cipher.lean ====
section
/-! DEFINITION. The cipher core: encipher and decipher as pure functions, and the commands ENCIPHER and DECIPHER
(40_cipher_core.md). -/

namespace Sys2Proof.Machine

/-- R100: T. -/
def shiftMix (x : Word) : Word := (x <<< 4) ^^^ (x >>> 5)

/-- R100: MIX. -/
def mix (x s kw : Word) : Word := (s + kw) ^^^ (shiftMix x + x)

/-- R101: the key index `x & 3`. -/
def keyIndex (x : Word) : Fin 4 := Fin.ofNat 4 (x &&& 3#32).toNat

/-- R101, R107: the key Word `k[x & 3]`. -/
def keyWord (k : Key) (x : Word) : Word := k.get (keyIndex x)

/-- What a round works on. R38: not architectural, so no part of State. -/
structure RoundState where
  v0 : Word
  v1 : Word
  s : Word
  deriving DecidableEq, Repr

/-- R101: one encipher round, in the seven steps of the source. -/
def encRound (k : Key) (r : RoundState) : RoundState :=
  let t0 := (r.v1 <<< 4) ^^^ (r.v1 >>> 5)
  let t1 := keyWord k r.s
  let v0 := r.v0 + ((r.s + t1) ^^^ (t0 + r.v1))
  let s := r.s + delta
  let t0 := (v0 <<< 4) ^^^ (v0 >>> 5)
  let t1 := keyWord k (s >>> 11)
  let v1 := r.v1 + ((s + t1) ^^^ (t0 + v0))
  { v0 := v0, v1 := v1, s := s }

/-- R107: one decipher round. -/
def decRound (k : Key) (r : RoundState) : RoundState :=
  let t0 := (r.v0 <<< 4) ^^^ (r.v0 >>> 5)
  let t1 := keyWord k (r.s >>> 11)
  let v1 := r.v1 - ((r.s + t1) ^^^ (t0 + r.v0))
  let s := r.s - delta
  let t0 := (v1 <<< 4) ^^^ (v1 >>> 5)
  let t1 := keyWord k s
  let v0 := r.v0 - ((s + t1) ^^^ (t0 + v1))
  { v0 := v0, v1 := v1, s := s }

/-- R102: the first `n` encipher rounds. -/
def encRounds (k : Key) : Nat → RoundState → RoundState
  | 0, r => r
  | n + 1, r => encRounds k n (encRound k r)

/-- R108: the first `n` decipher rounds. -/
def decRounds (k : Key) : Nat → RoundState → RoundState
  | 0, r => r
  | n + 1, r => decRounds k n (decRound k r)

/-- R102: encipher(v0, v1, k). -/
def encipher (v0 v1 : Word) (k : Key) : Word × Word :=
  let r := encRounds k rounds { v0 := v0, v1 := v1, s := 0 }
  (r.v0, r.v1)

/-- R108: decipher(v0, v1, k). -/
def decipher (v0 v1 : Word) (k : Key) : Word × Word :=
  let r := decRounds k rounds { v0 := v0, v1 := v1, s := decSum0 }
  (r.v0, r.v1)

/-- R110: the completion of ENCIPHER. -/
def execEncipher (s : State) : Host.Outcome State Fault Refusal :=
  let r := encipher s.v0 s.v1 keyWords
  .next (succeed { s with v0 := r.1, v1 := r.2 })

/-- R111: the completion of DECIPHER. -/
def execDecipher (s : State) : Host.Outcome State Fault Refusal :=
  let r := decipher s.v0 s.v1 keyWords
  .next (succeed { s with v0 := r.1, v1 := r.2 })

end Sys2Proof.Machine
end

