-- ==== Sys2Proof/Machine/Framing.lean ====
section
/-! DEFINITION. The suffix framer: encode and decode as pure functions of byte strings, and the commands ENCODE and
DECODE (41_codec_framing.md R145 to R148). -/

namespace Sys2Proof.Machine

/-- R145: encode(p), with the key Words and the suffix as arguments (R5, U9). -/
def encodeBytes (k : Key) (sfx : Vector Byte 16) (p : List Byte) : Except ErrorKind (List Byte) :=
  if h : p.length = 8 then
    let v := block ⟨p.toArray, by simpa using h⟩
    let r := encipher v.1 v.2 k
    .ok ((unblock r.1 r.2).toList ++ sfx.toList)
  else .error .invalidLength

/-- R146: decode(c), with the key Words and the suffix as arguments; the length is checked first. -/
def decodeBytes (k : Key) (sfx : Vector Byte 16) (c : List Byte) : Except ErrorKind (List Byte) :=
  if h : c.length = 24 then
    let b : Vector Byte 24 := ⟨c.toArray, by simpa using h⟩
    if slice b 8 16 = sfx then
      let v := block (slice b 0 8)
      let r := decipher v.1 v.2 k
      .ok (unblock r.1 r.2).toList
    else .error .formatMismatch
  else .error .invalidLength

/-- R147: the completion of ENCODE. -/
def execEncode (s : State) : Host.Outcome State Fault Refusal :=
  if s.inLen = 8 then
    let v := block (slice s.inBuf 0 8)
    let r := encipher v.1 v.2 keyWords
    .next (succeed { s with
      v0 := r.1
      v1 := r.2
      outBuf := join24 (unblock r.1 r.2) suffix
      outLen := 24 })
  else .next (raiseError .invalidLength s)

/-- R148: the completion of DECODE. R207: the length is tested first. OUT[8..23] is unchanged. -/
def execDecode (s : State) : Host.Outcome State Fault Refusal :=
  if s.inLen = 24 then
    if slice s.inBuf 8 16 = suffix then
      let v := block (slice s.inBuf 0 8)
      let r := decipher v.1 v.2 keyWords
      .next (succeed { s with
        v0 := r.1
        v1 := r.2
        outBuf := join24 (unblock r.1 r.2) (slice s.outBuf 8 16)
        outLen := 8 })
    else .next (raiseError .formatMismatch s)
  else .next (raiseError .invalidLength s)

end Sys2Proof.Machine
end

