-- ==== Sys2Proof/Machine/HostPort.lean ====
section
/-! DEFINITION. HOST's step: one action at a time, in the order HOST issues them (20_memory.md R51, R62), and whose turn
it is while a command is in flight (30_encoding.md R85). -/

namespace Sys2Proof.Machine

/-- R51: why an access is none HOST can make; the width is looked at first, then the alignment, then the window. -/
def accessRefusal (off width : Nat) : Option Refusal :=
  if width ≠ 4 then some .accessWidth
  else if off % 4 ≠ 0 then some .accessMisaligned
  else if 0xFFC < off then some .accessOutsideWindow
  else none

/-- Goes on with an access that R51 allows, refuses another by name. -/
def withAccess (off width : Nat) (go : State) : Host.Outcome State Fault Refusal :=
  match accessRefusal off width with
  | some r => .refused r
  | none => .next go

/-- RD (R89): the value read is bound to its name. -/
def hostRead (off : Nat) (name : HostName) (s : State) : State :=
  let r := memRead off s
  { r.2 with reads := (name, r.1) :: r.2.reads }

/-- One read of a POLL line (R89): the line stays at the head of the program until the value is the one waited for. -/
def hostPoll (off : Nat) (mask val : Word) (s : State) : State :=
  let r := memRead off s
  if r.1 &&& mask = val then r.2 else { r.2 with program := .poll off mask val :: r.2.program }

/-- One action of HOST, already taken off the program. -/
def hostAct (a : HostAction) (s : State) : Host.Outcome State Fault Refusal :=
  match a with
  | .read off width name => withAccess off width (hostRead off name s)
  | .write off width v => withAccess off width (memWrite off v s)
  | .poll off mask val => withAccess off 4 (hostPoll off mask val s)
  | .reset => .next (takeReset s)

/-- HOST's step. With nothing to do HOST waits, and IDLE is the state in which the block waits (R217). -/
def hostStep (s : State) : Host.Outcome State Fault Refusal :=
  match s.program with
  | [] => .next s
  | a :: rest => hostAct a { s with program := rest }

/-- R85, R238, R239: while a command is in flight, ENGINE moves once the HOST steps of its latency have passed, or when
HOST has nothing to do. -/
def engineMoves (s : State) : Bool := s.delay == 0 || s.program.isEmpty

/-- A HOST step that falls between acceptance and completion. -/
def countDown (s : State) : State := { s with delay := s.delay - 1 }

end Sys2Proof.Machine
end

