-- ==== Sys2Proof/Machine/Step.lean ====
section
/-! DEFINITION. One step of the machine: a HOST step or ENGINE's completion step (10_state.md R20, 30_encoding.md R85). -/

namespace Sys2Proof.Machine

/-- R20, R85: while IDLE only HOST has a step. While BUSY(op) ENGINE may complete op and HOST may act before it; both
orders are states of the model (R208), by `delay` (log 3). -/
def step (s : State) : Host.Outcome State Fault Refusal :=
  match s.phase with
  | .idle => hostStep s
  | .busy op => if engineMoves s then exec op s else hostStep (countDown s)

/-- The state in which the command word is in the machine and the very next step runs it (log 4). R84: a legal word
stands where its acceptance puts it, in PHASE, with STATUS as the acceptance leaves it, and no HOST step falls before
its completion. An illegal word has no completion: it stands in HOST's program as the CMD write that issues it. -/
def State.withFetchWord (s : State) (nbits w : Nat) : State :=
  match decodeTableWord nbits w with
  | some op => { s with phase := .busy op, status := s.status.accepted, delay := 0 }
  | none =>
    { s with
      phase := .idle
      status := { s.status with busy := false }
      program := .write 0x000 4 (BitVec.ofNat 32 (w % 2 ^ nbits)) :: s.program }

end Sys2Proof.Machine
end

