-- ==== Sys2Proof/Machine/HostProgram.lean ====
section
/-! DEFINITION. The host program notation: the lines of R89, the pseudo-lines of R90, and the bus transactions that are
their encoding. -/

namespace Sys2Proof.Machine

/-- R89: the symbol CMD. -/
def offCmd : Nat := 0x000
/-- R89: the symbol STATUS. -/
def offStatus : Nat := 0x004
/-- R89: the symbol IN_LEN. -/
def offInLen : Nat := 0x008
/-- R89: the symbol OUT_LEN. -/
def offOutLen : Nat := 0x00C
/-- R89: the symbol V0. -/
def offV0 : Nat := 0x010
/-- R89: the symbol V1. -/
def offV1 : Nat := 0x014

/-- R89: `WR off, value`. -/
def lineWr (off : Nat) (v : Word) : HostAction := .write off 4 v

/-- R89: `RD off -> name`. -/
def lineRd (off : Nat) (name : HostName) : HostAction := .read off 4 name

/-- R89: `POLL off, mask, val`. -/
def linePoll (off : Nat) (mask val : Word) : HostAction := .poll off mask val

/-- R90: `LOAD_IN b0, …, b(n-1)`: only the first 24 bytes are stored, IN_LEN gets the true length. -/
def loadIn (b : List Byte) : List HostAction :=
  (b.take 24).mapIdx (fun i x => lineWr (inOffset i) (x.setWidth 32)) ++ [lineWr offInLen (BitVec.ofNat 32 b.length)]

/-- R90: `WAIT`. -/
def lineWait : HostAction := linePoll offStatus 0x1#32 0x0#32

/-- R90: `RUN op`. -/
def runCommand (op : Instr) : List HostAction := [lineWr offCmd (encode op), lineWait]

/-- R90: `READ_OUT n -> r`. -/
def readOut (n r : Nat) : List HostAction :=
  (List.range n).map fun i => lineRd (outOffset i) (.elem r i)

/-- R90: `CLEAR_WBUSY`. -/
def clearWbusy : HostAction := lineWr offStatus 0x100#32

/-- R89: the bus transaction a line is encoded by. -/
inductive Transaction where
  /-- `W off data`. -/
  | write (off : Nat) (data : Word)
  /-- `R off`. -/
  | read (off : Nat)
  deriving DecidableEq, Repr

/-- R89: the transaction of a line; a POLL line repeats its own. Reset is no bus transaction (R230). -/
def HostAction.transaction : HostAction → Option Transaction
  | .read off _ _ => some (.read off)
  | .write off _ v => some (.write off v)
  | .poll off _ _ => some (.read off)
  | .reset => none

/-- R51: the transactions of accesses HOST can make. -/
def Transaction.wf : Transaction → Bool
  | .write off _ => legalAccess off 4
  | .read off => legalAccess off 4

/-- A hexadecimal digit, written as the spec writes them. -/
def hexDigit (n : Nat) : Char := if n < 10 then Char.ofNat (48 + n) else Char.ofNat (55 + n)

/-- A number in `digits` hexadecimal digits, the most significant first. -/
def hexText : Nat → Nat → List Char
  | 0, _ => []
  | digits + 1, n => hexText digits (n / 16) ++ [hexDigit (n % 16)]

/-- R89: the transaction as text, `off` as 3 hex digits and `data` as 8. -/
def Transaction.text : Transaction → List Char
  | .write off data => 'W' :: ' ' :: (hexText 3 off ++ ' ' :: hexText 8 data.toNat)
  | .read off => 'R' :: ' ' :: hexText 3 off

/-- The number a hexadecimal digit stands for. -/
def hexValue (c : Char) : Option Nat :=
  if 48 ≤ c.toNat ∧ c.toNat ≤ 57 then some (c.toNat - 48)
  else if 65 ≤ c.toNat ∧ c.toNat ≤ 70 then some (c.toNat - 55)
  else none

/-- The number a hexadecimal text stands for, read on from `acc`. -/
def hexNumber (acc : Nat) : List Char → Option Nat
  | [] => some acc
  | c :: cs =>
    match hexValue c with
    | some d => hexNumber (16 * acc + d) cs
    | none => none

/-- R89: the transaction a text is the encoding of; any other text is none. -/
def Transaction.ofText : List Char → Option Transaction
  | 'W' :: ' ' :: a :: b :: c :: ' ' :: data =>
    match hexNumber 0 [a, b, c], hexNumber 0 data with
    | some off, some v => if data.length = 8 then some (.write off (BitVec.ofNat 32 v)) else none
    | _, _ => none
  | ['R', ' ', a, b, c] => (hexNumber 0 [a, b, c]).map .read
  | _ => none

end Sys2Proof.Machine
end

