-- ==== Sys2Proof/Machine/Platform.lean ====
section
/-! DEFINITION. Where the platform puts the window on the host bus (20_memory.md R68). -/

namespace Sys2Proof.Machine

/-- R68: the bus address of a window offset. -/
def busAddress (off : Nat) : Nat := Config.windowBase + off

/-- R50, R68: the offset the block sees for a bus address, none where the address is outside the window. -/
def offsetOfBus (addr : Nat) : Option Nat :=
  if Config.windowBase ≤ addr ∧ addr < Config.windowBase + windowBytes then some (addr - Config.windowBase) else none

end Sys2Proof.Machine
end

