-- ==== Sys2Proof/WellFormed.lean ====
section
/-! DEFINITION. Which commands and which HOST actions are well-formed. -/

namespace Sys2Proof

/-- R83: a command has no operand, so each of the four is well-formed. -/
def Instr.wf : Instr → Bool
  | .encode => true
  | .decode => true
  | .encipher => true
  | .decipher => true

/-- R51: the actions HOST can take. Reads and writes are aligned 32-bit accesses inside the window, and so are the
reads of a POLL line. -/
def Machine.HostAction.wf : Machine.HostAction → Bool
  | .read off width _ => Machine.legalAccess off width
  | .write off width _ => Machine.legalAccess off width
  | .poll off _ _ => Machine.legalAccess off 4
  | .reset => true

end Sys2Proof
end

