-- ==== Sys2Proof/Safety.lean ====
section
/-! DEFINITION. What a run is and what holds in every state a run can reach. -/

namespace Sys2Proof.Machine

/-- `n` steps, stopping at the first fault or refusal. -/
def stepN : Nat → State → Host.Outcome State Fault Refusal
  | 0, s => .next s
  | n + 1, s =>
    match step s with
    | .next t => stepN n t
    | .fault f => .fault f
    | .refused r => .refused r

/-- R31 to R34: what STATUS and PHASE say of each other.
BUSY is 1 exactly when PHASE is BUSY(op) (R31); while a command is in flight DONE and ERR are 0, since its acceptance
cleared them (R84); DONE and ERR are never 1 together (R33); ECODE is 0 exactly when ERR is 0 (R34, R205). -/
structure State.ControlOk (s : State) : Prop where
  busy_iff : s.status.busy = true ↔ s.phase ≠ .idle
  in_flight : s.phase ≠ .idle → s.status.done = false ∧ s.status.err = false
  not_both : ¬ (s.status.done = true ∧ s.status.err = true)
  ecode_iff : s.status.ecode = .none ↔ s.status.err = false

/-- R28, R150: OUT_LEN is 0, 24 or 8, and where it is 24 (the last framed success was ENCODE) OUT ends with SUFFIX. -/
structure State.OutputOk (s : State) : Prop where
  length : s.outLen = 0 ∨ s.outLen = 24 ∨ s.outLen = 8
  framed : s.outLen = 24 → slice s.outBuf 8 16 = suffix

/-- Every action HOST has still to do is one HOST can do (R51). -/
def State.ProgramOk (s : State) : Prop := ∀ a ∈ s.program, a.wf = true

/-- HOST has no reset left to do. -/
def State.NoReset (s : State) : Prop := HostAction.reset ∉ s.program

end Sys2Proof.Machine
end

