-- ==== Sys2Proof/Certificates/Slice0/Obligations.lean ====
section
/-! DEFINITION. The statements about the model, for the provers. -/

open Sys2Proof Sys2Proof.Machine

/-! ### Command words -/

/-- R84, R85: a command word HOST writes to CMD while IDLE is decoded and accepted by that step; while BUSY(op) the
step in which ENGINE moves is exec of op, whole; and the state withFetchWord makes for a word runs the word's
command in its very next step. Derived: the split into steps is log 4, whose turn it is is log 3. -/
def Obligations.StepRunsDecodedCommand : Prop :=
  (∀ (s : State) (w : Word) (op : Instr) (rest : List HostAction),
    decode w = .ok op → s.phase = .idle → s.program = lineWr offCmd w :: rest →
      step s = .next (accept op { s with program := rest })) ∧
  (∀ (s : State) (op : Instr), s.phase = .busy op → engineMoves s = true → step s = exec op s) ∧
  (∀ (s : State) (w : Word) (op : Instr), decode w = .ok op →
    (s.withFetchWord 32 w.toNat).phase = .busy op ∧
    step (s.withFetchWord 32 w.toNat) = exec op (s.withFetchWord 32 w.toNat))

/-- R81, R82: the four words of the table and some words next to them. -/
def Obligations.CommandWordsDecode : Prop :=
  decode 0x00000001#32 = .ok .encode ∧ decode 0x00000002#32 = .ok .decode ∧
  decode 0x00000003#32 = .ok .encipher ∧ decode 0x00000004#32 = .ok .decipher ∧
  decode 0x00000000#32 = .error .illegalCommandWord ∧ decode 0x00000005#32 = .error .illegalCommandWord ∧
  decode 0x80000001#32 = .error .illegalCommandWord ∧ decode 0xFFFFFFFF#32 = .error .illegalCommandWord

/-- R80, R81, R87: decoding and encoding agree in both directions. A command's word decodes to it and no other word
does, so no bit of a word is dropped; a word that is no command's is rejected. -/
def Obligations.DecodeEncodeAgree : Prop :=
  (∀ (w : Word) (op : Instr), decode w = .ok op ↔ w = encode op) ∧
  (∀ w : Word, decode w = .error .illegalCommandWord ↔
    w ≠ 0x00000001#32 ∧ w ≠ 0x00000002#32 ∧ w ≠ 0x00000003#32 ∧ w ≠ 0x00000004#32) ∧
  (∀ (w : Word), decodeTableWord 32 w.toNat = (decode w).toOption)

/-- R89: the text of a bus transaction HOST can make reads back as that transaction, at every offset and every data
word, and two transactions have different texts. -/
def Obligations.TransactionTextReadsBack : Prop :=
  (∀ t : Transaction, t.wf = true → Transaction.ofText t.text = some t) ∧
  (∀ t u : Transaction, t.wf = true → u.wf = true → t.text = u.text → t = u)

/-! ### The cipher core -/

/-- R6, R100, R101, R107: MIX in the numbers of R6, which key Word a round selects, and both rounds written with MIX. -/
def Obligations.RoundsAreMixUpdates : Prop :=
  (∀ x s kw : Word, mix x s kw = (s + kw) ^^^ (((x <<< 4) ^^^ (x >>> 5)) + x)) ∧
  (∀ x y : Word, (x + y).toNat = (x.toNat + y.toNat) % 2 ^ 32 ∧ (x <<< 4).toNat = x.toNat * 16 % 2 ^ 32 ∧
    (x >>> 5).toNat = x.toNat / 32 ∧ (x - y).toNat = (x.toNat + 2 ^ 32 - y.toNat) % 2 ^ 32) ∧
  (∀ x : Word, (keyIndex x).val = x.toNat % 4 ∧ (keyIndex (x >>> 11)).val = x.toNat / 2048 % 4) ∧
  (∀ (k : Key) (x : Word), keyWord k x = k.get (keyIndex x)) ∧
  (∀ (k : Key) (r : RoundState),
    (encRound k r).v0 = r.v0 + mix r.v1 r.s (keyWord k r.s) ∧
    (encRound k r).s = r.s + 0x9E3779B9#32 ∧
    (encRound k r).v1 = r.v1 + mix (encRound k r).v0 (encRound k r).s (keyWord k ((encRound k r).s >>> 11))) ∧
  (∀ (k : Key) (r : RoundState),
    (decRound k r).v1 = r.v1 - mix r.v0 r.s (keyWord k (r.s >>> 11)) ∧
    (decRound k r).s = r.s - 0x9E3779B9#32 ∧
    (decRound k r).v0 = r.v0 - mix (decRound k r).v1 (decRound k r).s (keyWord k (decRound k r).s))

/-- R103: the value of s at the start of each encipher round, the key Words steps 2 and 6 select in it, s after the
last round, and where s wraps first, for every key and every input. -/
def Obligations.EncipherSumAndKeySchedule : Prop :=
  (∀ (k : Key) (v0 v1 : Word) (r : Fin 32),
    let at_ := encRounds k r.val { v0 := v0, v1 := v1, s := 0 }
    let next := encRounds k (r.val + 1) { v0 := v0, v1 := v1, s := 0 }
    at_.s.toNat = r.val * 0x9E3779B9 % 2 ^ 32 ∧
    next.v0 = at_.v0 + mix at_.v1 at_.s
      (k.get ((#v[0, 1, 2, 3, 0, 1, 2, 3, 0, 1, 2, 3, 0, 1, 2, 3, 0, 1, 2, 3, 0, 1, 2, 3, 0, 1, 2, 3, 0, 1, 2, 3]
        : Vector (Fin 4) 32).get r)) ∧
    next.v1 = at_.v1 + mix next.v0 next.s
      (k.get ((#v[3, 2, 1, 0, 0, 3, 2, 1, 0, 0, 3, 2, 1, 1, 0, 3, 2, 1, 1, 0, 3, 2, 1, 1, 0, 3, 2, 2, 1, 0, 3, 2]
        : Vector (Fin 4) 32).get r))) ∧
  (∀ (k : Key) (v0 v1 : Word), (encRounds k 32 { v0 := v0, v1 := v1, s := 0 }).s = 0xC6EF3720#32) ∧
  (1 * 0x9E3779B9 < 2 ^ 32 ∧ 2 * 0x9E3779B9 = 0x13C6EF372 ∧
    ∀ (k : Key) (v0 v1 : Word), (encRounds k 2 { v0 := v0, v1 := v1, s := 0 }).s = 0x3C6EF372#32)

/-- R106: DEC_SUM0 is 32 × DELTA modulo 2^32, and the value of s after encipher's 32nd round. -/
def Obligations.DecipherStartsAtEnciphersLastSum : Prop :=
  decSum0 = 0xC6EF3720#32 ∧ 32 * 0x9E3779B9 = 0x13C6EF3720 ∧ decSum0.toNat = 32 * delta.toNat % 2 ^ 32 ∧
  ∀ (k : Key) (v0 v1 : Word), decSum0 = (encRounds k 32 { v0 := v0, v1 := v1, s := 0 }).s

/-- R108: decipher is 32 rounds from s = 0xC6EF3720; its round j starts at s = (32 − j) × DELTA and undoes encipher
round 31 − j, for every key; the sum ends at 0. -/
def Obligations.DecipherRetracesEncipher : Prop :=
  (∀ (k : Key) (v0 v1 : Word),
    decipher v0 v1 k = ((decRounds k 32 { v0 := v0, v1 := v1, s := 0xC6EF3720#32 }).v0,
      (decRounds k 32 { v0 := v0, v1 := v1, s := 0xC6EF3720#32 }).v1)) ∧
  (∀ (k : Key) (v0 v1 : Word) (j : Nat), j ≤ 32 →
    decRounds k j (encRounds k 32 { v0 := v0, v1 := v1, s := 0 }) =
      encRounds k (32 - j) { v0 := v0, v1 := v1, s := 0 }) ∧
  (∀ (k : Key) (v0 v1 : Word) (j : Nat), j ≤ 32 →
    (decRounds k j { v0 := v0, v1 := v1, s := 0xC6EF3720#32 }).s.toNat = (32 - j) * 0x9E3779B9 % 2 ^ 32)

/-- R109: encipher and decipher are each other's inverse, for every v0, v1 and key. -/
def Obligations.EncipherDecipherInverse : Prop :=
  ∀ (v0 v1 : Word) (k : Key),
    decipher (encipher v0 v1 k).1 (encipher v0 v1 k).2 k = (v0, v1) ∧
    encipher (decipher v0 v1 k).1 (decipher v0 v1 k).2 k = (v0, v1)

/-! ### The codec and the framed functions -/

/-- R140, R141, R142: the Words and bytes of the codec as numbers, and the two laws of R141. -/
def Obligations.ByteOrderCodec : Prop :=
  (∀ b : Vector Byte 4, (be32 b).toNat =
    b[0].toNat * 2 ^ 24 + b[1].toNat * 2 ^ 16 + b[2].toNat * 2 ^ 8 + b[3].toNat) ∧
  (∀ b : Vector Byte 4, (le32 b).toNat =
    b[0].toNat + b[1].toNat * 2 ^ 8 + b[2].toNat * 2 ^ 16 + b[3].toNat * 2 ^ 24) ∧
  (∀ w : Word, (bytesBe w)[0].toNat = w.toNat / 2 ^ 24 ∧ (bytesBe w)[1].toNat = w.toNat / 2 ^ 16 % 256 ∧
    (bytesBe w)[2].toNat = w.toNat / 2 ^ 8 % 256 ∧ (bytesBe w)[3].toNat = w.toNat % 256) ∧
  (∀ w : Word, be32 (bytesBe w) = w) ∧
  (∀ b : Vector Byte 4, bytesBe (be32 b) = b)

/-- R39, R40, R143: KEYW is the four little-endian Words of "troqkddmtroqkcdm", with the values the rule gives; SUFFIX
is the source's literal byte for byte, byte 7 being 0xBE (N6). That the literal is taken as it stands is U9's default
(log 7). -/
def Obligations.KeyExpansion : Prop :=
  key.toList = "troqkddmtroqkcdm".toList.map (fun c => BitVec.ofNat 8 c.toNat) ∧
  keyWords = #v[le32 #v[key[0], key[1], key[2], key[3]], le32 #v[key[4], key[5], key[6], key[7]],
    le32 #v[key[8], key[9], key[10], key[11]], le32 #v[key[12], key[13], key[14], key[15]]] ∧
  keyWords = #v[0x716F7274#32, 0x6D64646B#32, 0x716F7274#32, 0x6D64636B#32] ∧
  suffix.toList = [0xE8#8, 0xB1#8, 0x0C#8, 0x1F#8, 0x8B#8, 0xC3#8, 0x59#8, 0xBE#8,
    0xE8#8, 0xB1#8, 0x0C#8, 0x1F#8, 0x8B#8, 0xC3#8, 0x59#8, 0x5B#8]

/-- R151: encode fails exactly on inputs of length other than 8, decode exactly on inputs of length other than 24 and
on 24-byte inputs whose last 16 bytes are not the suffix; the kinds of error and the lengths of the results. For
every key and every suffix (U9). -/
def Obligations.LengthContracts : Prop :=
  ∀ (k : Key) (sfx : Vector Byte 16) (b : List Byte),
    (b.length = 8 → ∃ c, encodeBytes k sfx b = .ok c ∧ c.length = 24) ∧
    (b.length ≠ 8 → encodeBytes k sfx b = .error .invalidLength) ∧
    (b.length = 24 → b.drop 8 = sfx.toList → ∃ p, decodeBytes k sfx b = .ok p ∧ p.length = 8) ∧
    (b.length = 24 → b.drop 8 ≠ sfx.toList → decodeBytes k sfx b = .error .formatMismatch) ∧
    (b.length ≠ 24 → decodeBytes k sfx b = .error .invalidLength)

/-- R149: decode undoes encode on every 8-byte plaintext, whatever the key and the suffix (U9); and at the registers,
ENCODE with IN_LEN = 8 succeeds, and with OUT copied into IN and IN_LEN = 24 DECODE then succeeds and OUT[0:8] is the
IN[0:8] there was. -/
def Obligations.CredentialRoundTrip : Prop :=
  (∀ (k : Key) (sfx : Vector Byte 16) (p : List Byte), p.length = 8 →
    ∃ c, encodeBytes k sfx p = .ok c ∧ decodeBytes k sfx c = .ok p) ∧
  (∀ s : State, s.inLen = 8 →
    ∃ t u, exec .encode s = .next t ∧ t.status.done = true ∧
      exec .decode { t with inBuf := t.outBuf, inLen := 24 } = .next u ∧ u.status.done = true ∧
      slice u.outBuf 0 8 = slice s.inBuf 0 8)

/-- R150: encode's result always ends with the suffix; after every successful ENCODE OUT[8..23] is SUFFIX, so that
its output passes DECODE's suffix test. The bytes are those of the constant `suffix` (U9, log 7). -/
def Obligations.EncodedEndsWithSuffix : Prop :=
  (∀ (k : Key) (sfx : Vector Byte 16) (p c : List Byte), encodeBytes k sfx p = .ok c → c.drop 8 = sfx.toList) ∧
  (∀ s t : State, exec .encode s = .next t → t.status.done = true →
    slice t.outBuf 8 16 = suffix ∧
    ∃ u, exec .decode { t with inBuf := t.outBuf, inLen := 24 } = .next u ∧ u.status.done = true)

/-! ### What each command does -/

/-- R110: ENCIPHER completes in every state, with this state: V0, V1 and STATUS, nothing else; the rule's example. -/
def Obligations.EncipherCommand : Prop :=
  (∀ s : State, exec .encipher s = .next { s with
    v0 := (encipher s.v0 s.v1 #v[0x716F7274#32, 0x6D64646B#32, 0x716F7274#32, 0x6D64636B#32]).1
    v1 := (encipher s.v0 s.v1 #v[0x716F7274#32, 0x6D64646B#32, 0x716F7274#32, 0x6D64636B#32]).2
    status := { busy := false, done := true, err := false, ecode := .none, wbusy := s.status.wbusy }
    phase := .idle }) ∧
  encipher 0 0 keyWords = (0xE8B10C1F#32, 0x8BC3595B#32)

/-- R111: DECIPHER completes in every state, with this state: V0, V1 and STATUS, nothing else; ENCIPHER then DECIPHER,
and DECIPHER then ENCIPHER, restore V0 and V1; the rule's examples. -/
def Obligations.DecipherCommand : Prop :=
  (∀ s : State, exec .decipher s = .next { s with
    v0 := (decipher s.v0 s.v1 #v[0x716F7274#32, 0x6D64646B#32, 0x716F7274#32, 0x6D64636B#32]).1
    v1 := (decipher s.v0 s.v1 #v[0x716F7274#32, 0x6D64646B#32, 0x716F7274#32, 0x6D64636B#32]).2
    status := { busy := false, done := true, err := false, ecode := .none, wbusy := s.status.wbusy }
    phase := .idle }) ∧
  (∀ s : State, ∃ t u, exec .encipher s = .next t ∧ exec .decipher t = .next u ∧ u.v0 = s.v0 ∧ u.v1 = s.v1) ∧
  (∀ s : State, ∃ t u, exec .decipher s = .next t ∧ exec .encipher t = .next u ∧ u.v0 = s.v0 ∧ u.v1 = s.v1) ∧
  decipher 0 0 keyWords = (0x2D160C1C#32, 0xA3CE1A56#32) ∧
  decipher 0xE8B10C1F#32 0x8BC3595B#32 keyWords = (0, 0)

/-- R147: ENCODE completes in every state. With IN_LEN = 8 it writes V0, V1, OUT, OUT_LEN and STATUS as given here,
OUT being encode of IN[0:8]; with any other IN_LEN it ends in InvalidLength and changes STATUS alone. IN[8..23] and
the old V0 and V1 do not occur in the result; the rule's example. -/
def Obligations.EncodeCommand : Prop :=
  (∀ s : State, s.inLen = 8 → ∃ out : Vector Byte 24,
    let r := encipher (be32 #v[s.inBuf[0], s.inBuf[1], s.inBuf[2], s.inBuf[3]])
      (be32 #v[s.inBuf[4], s.inBuf[5], s.inBuf[6], s.inBuf[7]]) keyWords
    exec .encode s = .next { s with
      v0 := r.1
      v1 := r.2
      outBuf := out
      outLen := 24
      status := { busy := false, done := true, err := false, ecode := .none, wbusy := s.status.wbusy }
      phase := .idle } ∧
    out.toList = (bytesBe r.1).toList ++ (bytesBe r.2).toList ++ suffix.toList ∧
    encodeBytes keyWords suffix (s.inBuf.toList.take 8) = .ok out.toList) ∧
  (∀ s : State, s.inLen ≠ 8 → exec .encode s = .next { s with
    status := { busy := false, done := false, err := true, ecode := .invalidLength, wbusy := s.status.wbusy }
    phase := .idle }) ∧
  encodeBytes keyWords suffix [0x31#8, 0x32#8, 0x33#8, 0x34#8, 0x35#8, 0x36#8, 0x37#8, 0x38#8] =
    .ok ([0xC3#8, 0x66#8, 0x7D#8, 0xDF#8, 0x98#8, 0x01#8, 0x94#8, 0xE4#8] ++ suffix.toList)

/-- R148: DECODE completes in every state. With IN_LEN = 24 and IN[8:24] = SUFFIX it writes V0, V1, OUT[0..7], OUT_LEN
and STATUS as given here, OUT[0:8] being decode of IN[0:24], and OUT[8..23] as they were; with IN_LEN = 24 and
another IN[8:24] it ends in FormatMismatch, with any other IN_LEN in InvalidLength whatever IN holds, and then it
changes STATUS alone; the rule's example. -/
def Obligations.DecodeCommand : Prop :=
  (∀ s : State, s.inLen = 24 → s.inBuf.toList.drop 8 = suffix.toList → ∃ out : Vector Byte 24,
    let r := decipher (be32 #v[s.inBuf[0], s.inBuf[1], s.inBuf[2], s.inBuf[3]])
      (be32 #v[s.inBuf[4], s.inBuf[5], s.inBuf[6], s.inBuf[7]]) keyWords
    exec .decode s = .next { s with
      v0 := r.1
      v1 := r.2
      outBuf := out
      outLen := 8
      status := { busy := false, done := true, err := false, ecode := .none, wbusy := s.status.wbusy }
      phase := .idle } ∧
    out.toList = (bytesBe r.1).toList ++ (bytesBe r.2).toList ++ s.outBuf.toList.drop 8 ∧
    decodeBytes keyWords suffix s.inBuf.toList = .ok (out.toList.take 8)) ∧
  (∀ s : State, s.inLen = 24 → s.inBuf.toList.drop 8 ≠ suffix.toList → exec .decode s = .next { s with
    status := { busy := false, done := false, err := true, ecode := .formatMismatch, wbusy := s.status.wbusy }
    phase := .idle }) ∧
  (∀ s : State, s.inLen ≠ 24 → exec .decode s = .next { s with
    status := { busy := false, done := false, err := true, ecode := .invalidLength, wbusy := s.status.wbusy }
    phase := .idle }) ∧
  decodeBytes keyWords suffix ([0xC3#8, 0x66#8, 0x7D#8, 0xDF#8, 0x98#8, 0x01#8, 0x94#8, 0xE4#8] ++ suffix.toList) =
    .ok [0x31#8, 0x32#8, 0x33#8, 0x34#8, 0x35#8, 0x36#8, 0x37#8, 0x38#8]

/-- R85, R86, R205: every command, from every state, completes in one step, in one of two ways: the success STATUS
with DONE, or the error STATUS with code 1 or 2 and nothing but STATUS and PHASE changed. Both leave PHASE IDLE and
WBUSY as it was. ENCIPHER and DECIPHER never take the error way. -/
def Obligations.EveryCommandCompletes : Prop :=
  ∀ (op : Instr) (s : State), ∃ t, exec op s = .next t ∧ t.phase = .idle ∧
    (t.status = { busy := false, done := true, err := false, ecode := .none, wbusy := s.status.wbusy } ∨
      (op = .encode ∨ op = .decode) ∧ ∃ code, (code = .invalidLength ∨ code = .formatMismatch) ∧
        t = { s with
          status := { busy := false, done := false, err := true, ecode := code, wbusy := s.status.wbusy }
          phase := .idle })

/-- R205: an error completion does exactly this, for each of the three errors, with its code in bits 6:4. -/
def Obligations.ErrorCompletion : Prop :=
  (∀ (e : ErrorKind) (s : State), raiseError e s = { s with
    status := { busy := false, done := false, err := true, ecode := e.code, wbusy := s.status.wbusy }
    phase := .idle }) ∧
  (∀ s : State, (raiseError .invalidLength s).status.toWord &&& 0x7F#32 = 0x14#32 ∧
    (raiseError .formatMismatch s).status.toWord &&& 0x7F#32 = 0x24#32 ∧
    (raiseError .illegalCommand s).status.toWord &&& 0x7F#32 = 0x34#32) ∧
  (∀ (w : Word) (s : State), s.phase = .idle → s.status.busy = false →
    decode w = .error .illegalCommandWord →
    (issue w s).phase = s.phase ∧ (issue w s).status.busy = s.status.busy)

/-- R206: an error completion, of a command or of an illegal word, writes no result register. -/
def Obligations.ErrorsWriteNoResult : Prop :=
  (∀ (op : Instr) (s t : State), exec op s = .next t → t.status.err = true →
    t.v0 = s.v0 ∧ t.v1 = s.v1 ∧ t.outBuf = s.outBuf ∧ t.outLen = s.outLen) ∧
  (∀ (w : Word) (s : State), decode w = .error .illegalCommandWord →
    (issue w s).v0 = s.v0 ∧ (issue w s).v1 = s.v1 ∧ (issue w s).outBuf = s.outBuf ∧ (issue w s).outLen = s.outLen)

/-- Frame of ENCIPHER and DECIPHER (R83, R110, R111): every register of the window but V0, V1 and STATUS holds what it
held, so does WBUSY, and so do HOST's program and what it has read. -/
def Obligations.RawCommandFrame : Prop :=
  ∀ (op : Instr) (s t : State), op = .encipher ∨ op = .decipher → exec op s = .next t →
    (∀ off : Nat, off ≠ 0x004 → off ≠ 0x010 → off ≠ 0x014 →
      regValue (regAt off) t = regValue (regAt off) s) ∧
    t.status.wbusy = s.status.wbusy ∧ t.inBuf = s.inBuf ∧ t.inLen = s.inLen ∧ t.outBuf = s.outBuf ∧
    t.outLen = s.outLen ∧ t.program = s.program ∧ t.reads = s.reads

/-- Frame of ENCODE and DECODE (R83, R147, R148): every register of the window but V0, V1, STATUS, OUT_LEN and the OUT
bytes of the command (all 24 for ENCODE, the first 8 for DECODE) holds what it held, so do WBUSY, HOST's program and
what it has read. -/
def Obligations.FramedCommandFrame : Prop :=
  (∀ s t : State, exec .encode s = .next t →
    ∀ off : Nat, off ≠ 0x004 → off ≠ 0x00C → off ≠ 0x010 → off ≠ 0x014 → ¬ (0x200 ≤ off ∧ off < 0x260) →
      regValue (regAt off) t = regValue (regAt off) s) ∧
  (∀ s t : State, exec .decode s = .next t →
    ∀ off : Nat, off ≠ 0x004 → off ≠ 0x00C → off ≠ 0x010 → off ≠ 0x014 → ¬ (0x200 ≤ off ∧ off < 0x220) →
      regValue (regAt off) t = regValue (regAt off) s) ∧
  (∀ (op : Instr) (s t : State), op = .encode ∨ op = .decode → exec op s = .next t →
    t.status.wbusy = s.status.wbusy ∧ t.inBuf = s.inBuf ∧ t.inLen = s.inLen ∧
    t.program = s.program ∧ t.reads = s.reads)

/-- R83: what a command's result depends on. ENCODE reads IN_LEN and, where it is 8, IN[0..7]; DECODE reads IN_LEN and,
where it is 24, IN[0..23]; ENCIPHER and DECIPHER read V0 and V1. Two states that agree on these give the same
outcome and the same results, whatever else they hold. -/
def Obligations.ResultsDependOnNamedInputs : Prop :=
  (∀ s u t v : State, exec .encode s = .next t → exec .encode u = .next v → s.inLen = u.inLen →
    (s.inLen = 8 → ∀ i : Fin 8, s.inBuf[i.val] = u.inBuf[i.val]) →
    t.status.done = v.status.done ∧ t.status.err = v.status.err ∧ t.status.ecode = v.status.ecode ∧
    (t.status.done = true → t.v0 = v.v0 ∧ t.v1 = v.v1 ∧ t.outBuf = v.outBuf ∧ t.outLen = v.outLen)) ∧
  (∀ s u t v : State, exec .decode s = .next t → exec .decode u = .next v → s.inLen = u.inLen →
    (s.inLen = 24 → s.inBuf = u.inBuf) →
    t.status.done = v.status.done ∧ t.status.err = v.status.err ∧ t.status.ecode = v.status.ecode ∧
    (t.status.done = true → t.v0 = v.v0 ∧ t.v1 = v.v1 ∧ t.outLen = v.outLen ∧
      ∀ i : Fin 8, t.outBuf[i.val] = v.outBuf[i.val])) ∧
  (∀ (op : Instr) (s u t v : State), op = .encipher ∨ op = .decipher →
    exec op s = .next t → exec op u = .next v → s.v0 = u.v0 → s.v1 = u.v1 → t.v0 = v.v0 ∧ t.v1 = v.v1)

/-! ### The host window -/

/-- R53: MemRead at every offset of the map. While IDLE, and for STATUS, IN_LEN, IN[i], CMD and reserved offsets in
every PHASE, it returns the value given here and changes nothing. The last clause is the model's rendering of UNSPEC
(log 2, a DESIGN CHOICE): V0, V1, OUT_LEN and OUT[i] while BUSY return the free value at the draw counter, and then the
counter, which is no state of the block, moves on. -/
def Obligations.BusReadTable : Prop :=
  ∀ s : State,
    memRead 0x000 s = (0, s) ∧
    memRead 0x004 s =
      (((if s.status.wbusy then 1#32 else 0#32) <<< 8) ||| (s.status.ecode.bits <<< 4) |||
        ((if s.status.err then 1#32 else 0#32) <<< 2) ||| ((if s.status.done then 1#32 else 0#32) <<< 1) |||
        (if s.status.busy then 1#32 else 0#32), s) ∧
    memRead 0x008 s = (s.inLen, s) ∧
    (∀ i : Fin 24, memRead (0x100 + 4 * i.val) s = ((s.inBuf[i.val]).setWidth 32, s)) ∧
    (∀ off : Nat, (0x018 ≤ off ∧ off < 0x100) ∨ (0x160 ≤ off ∧ off < 0x200) ∨ 0x260 ≤ off →
      memRead off s = (0, s)) ∧
    (s.phase = .idle →
      memRead 0x00C s = (s.outLen, s) ∧ memRead 0x010 s = (s.v0, s) ∧ memRead 0x014 s = (s.v1, s) ∧
      ∀ i : Fin 24, memRead (0x200 + 4 * i.val) s = ((s.outBuf[i.val]).setWidth 32, s)) ∧
    (s.phase ≠ .idle → ∀ off : Nat,
      off = 0x00C ∨ off = 0x010 ∨ off = 0x014 ∨ (∃ i : Fin 24, off = 0x200 + 4 * i.val) →
        memRead off s = (Config.unspecRead s.draws, { s with draws := s.draws + 1 }))

/-- R54: MemWrite at every offset of the map, while IDLE and while BUSY, with its frame: the state after it is the one
given here. -/
def Obligations.BusWriteTable : Prop :=
  ∀ (s : State) (v : Word),
    memWrite 0x004 v s =
      { s with status := { s.status with wbusy := if v.getLsbD 8 then false else s.status.wbusy } } ∧
    (s.phase = .idle →
      memWrite 0x000 v s = issue v s ∧
      memWrite 0x008 v s = { s with inLen := v } ∧
      memWrite 0x010 v s = { s with v0 := v } ∧
      memWrite 0x014 v s = { s with v1 := v } ∧
      ∀ i : Fin 24, memWrite (0x100 + 4 * i.val) v s = { s with inBuf := s.inBuf.set i.val (v.extractLsb' 0 8) }) ∧
    (s.phase ≠ .idle → ∀ off : Nat,
      off = 0x000 ∨ off = 0x008 ∨ off = 0x010 ∨ off = 0x014 ∨ (∃ i : Fin 24, off = 0x100 + 4 * i.val) →
        memWrite off v s = { s with status := { s.status with wbusy := true } }) ∧
    (∀ off : Nat, off = 0x00C ∨ (∃ i : Fin 24, off = 0x200 + 4 * i.val) ∨
        (0x018 ≤ off ∧ off < 0x100) ∨ (0x160 ≤ off ∧ off < 0x200) ∨ 0x260 ≤ off →
      memWrite off v s = s)

/-- R55: while IDLE, a read of IN[j] after a write of `v` to IN[i] returns `v[7:0]` zero-extended where j is i, and what
IN[j] held where it is not; no other register of the window changes. -/
def Obligations.InputByteReadsBack : Prop :=
  ∀ (s : State) (v : Word) (i : Fin 24), s.phase = .idle →
    (memRead (0x100 + 4 * i.val) (memWrite (0x100 + 4 * i.val) v s)).1.toNat = v.toNat % 256 ∧
    (∀ j : Fin 24, j ≠ i →
      (memRead (0x100 + 4 * j.val) (memWrite (0x100 + 4 * i.val) v s)).1 = (memRead (0x100 + 4 * j.val) s).1) ∧
    (∀ off : Nat, off ≠ 0x100 + 4 * i.val →
      regValue (regAt off) (memWrite (0x100 + 4 * i.val) v s) = regValue (regAt off) s)

/-- R51, R89: an access of HOST goes on exactly when it is 32 bits wide, aligned and inside the window; any other is
refused by a name of its own. A WR line that goes on is memWrite; an RD line binds its name to the value memRead gives;
a POLL line, whose read is always 32 bits wide, is done when that value under its mask is the one waited for, and else
stays at the head of HOST's program. The names of the refusals, and which is given where two apply, are the model's
(log 9). -/
def Obligations.OnlyAlignedWordAccesses : Prop :=
  ∀ (s : State) (off width : Nat) (v mask val : Word) (name : HostName),
    (width = 4 ∧ off % 4 = 0 ∧ off ≤ 0xFFC →
      hostAct (.write off width v) s = .next (memWrite off v s) ∧
      hostAct (.read off width name) s =
        .next { (memRead off s).2 with reads := (name, (memRead off s).1) :: s.reads }) ∧
    (¬ (width = 4 ∧ off % 4 = 0 ∧ off ≤ 0xFFC) → ∃ r : Refusal,
      (r = .accessWidth ∨ r = .accessMisaligned ∨ r = .accessOutsideWindow) ∧
      hostAct (.write off width v) s = .refused r ∧ hostAct (.read off width name) s = .refused r) ∧
    (off % 4 = 0 ∧ off ≤ 0xFFC → (memRead off s).1 &&& mask = val →
      hostAct (.poll off mask val) s = .next (memRead off s).2) ∧
    (off % 4 = 0 ∧ off ≤ 0xFFC → (memRead off s).1 &&& mask ≠ val →
      hostAct (.poll off mask val) s =
        .next { (memRead off s).2 with program := linePoll off mask val :: s.program }) ∧
    (¬ (off % 4 = 0 ∧ off ≤ 0xFFC) → ∃ r : Refusal,
      (r = .accessMisaligned ∨ r = .accessOutsideWindow) ∧ hostAct (.poll off mask val) s = .refused r)

/-- R30, R34, R36: where each field of STATUS stands in the word a read returns, ECODE's numbers, that the reserved bits
read 0, and that a write to STATUS looks at no bit but bit 8. -/
def Obligations.StatusWordLayout : Prop :=
  (ECode.none.bits = 0 ∧ ECode.invalidLength.bits = 1 ∧ ECode.formatMismatch.bits = 2 ∧
    ECode.illegalCommand.bits = 3) ∧
  (∀ (s : State) (v : Word), memWrite 0x004 v s = memWrite 0x004 (v &&& 0x100#32) s) ∧
  ∀ st : Status,
    st.toWord.getLsbD 0 = st.busy ∧ st.toWord.getLsbD 1 = st.done ∧ st.toWord.getLsbD 2 = st.err ∧
    st.toWord.getLsbD 3 = false ∧ st.toWord.extractLsb' 4 3 = st.ecode.bits.setWidth 3 ∧
    st.toWord.getLsbD 7 = false ∧ st.toWord.getLsbD 8 = st.wbusy ∧
    (∀ i : Nat, 9 ≤ i → st.toWord.getLsbD i = false)

/-- R84: what issue does with each of the four command words and with every other word: the whole state after it. The
fields delay, givenLatencies and draws are the model's own, and what acceptance does to them (a latency that R239 leaves
open, so here some number, the next given latency used up, a draw taken) is the model's choice, log 3. -/
def Obligations.IssueAcceptsOrRaises : Prop :=
  (∀ (op : Instr) (s : State), ∃ n : Nat, issue (encode op) s = { s with
    phase := .busy op
    status := { busy := true, done := false, err := false, ecode := .none, wbusy := s.status.wbusy }
    delay := n
    givenLatencies := s.givenLatencies.tail
    draws := s.draws + 1 }) ∧
  (∀ (w : Word) (s : State), w ≠ 1 → w ≠ 2 → w ≠ 3 → w ≠ 4 → issue w s = { s with
    status := { busy := false, done := false, err := true, ecode := .illegalCommand, wbusy := s.status.wbusy }
    phase := .idle })

/-- R82, R203, R237: an illegal word HOST writes to CMD while IDLE is answered at once: the next read of STATUS shows
BUSY = 0, DONE = 0, ERR = 1, ECODE = 3, the block stays IDLE and nothing but STATUS changes. -/
def Obligations.IllegalWordSeenAtOnce : Prop :=
  ∀ (s : State) (w : Word) (rest : List HostAction),
    s.phase = .idle → s.program = lineWr offCmd w :: rest → w ≠ 1 → w ≠ 2 → w ≠ 3 → w ≠ 4 →
    ∃ t, step s = .next t ∧ t.phase = .idle ∧
      (memRead 0x004 t).1 = (if s.status.wbusy then 0x134#32 else 0x034#32) ∧
      t = { s with program := rest, status := t.status }

/-- R204: a write to CMD, IN_LEN, V0, V1 or IN[i] while BUSY is dropped and sets WBUSY, and the command in flight
writes the same results as if the write had not been made. -/
def Obligations.BusyWriteIsDropped : Prop :=
  ∀ (s : State) (op : Instr) (off : Nat) (v : Word), s.phase = .busy op →
    off = 0x000 ∨ off = 0x008 ∨ off = 0x010 ∨ off = 0x014 ∨ (∃ i : Fin 24, off = 0x100 + 4 * i.val) →
    memWrite off v s = { s with status := { s.status with wbusy := true } } ∧
    ∀ t, exec op s = .next t →
      exec op (memWrite off v s) = .next { t with status := { t.status with wbusy := true } }

/-- R35: what sets WBUSY, what clears it and what leaves it. -/
def Obligations.WbusyIsSticky : Prop :=
  (∀ (s : State) (v : Word), v.getLsbD 8 = true → (memWrite 0x004 v s).status.wbusy = false) ∧
  (∀ (s : State) (v : Word), v.getLsbD 8 = false → memWrite 0x004 v s = s) ∧
  (∀ s : State, (busyWrite s).status.wbusy = true ∧ (takeReset s).status.wbusy = false) ∧
  (∀ (op : Instr) (s : State), (accept op s).status.wbusy = s.status.wbusy) ∧
  (∀ (op : Instr) (s t : State), exec op s = .next t → t.status.wbusy = s.status.wbusy)

/-! ### Reset -/

/-- R230, R231: reset leaves the block IDLE with STATUS 0, IN_LEN 0 and OUT_LEN 0, in one step of HOST, also while a
command is in flight; then ENGINE has no step: the next step is HOST's. Nothing is said of V0, V1, IN and OUT, which
R230 leaves UNSPEC. That it is HOST's turn while BUSY is said with the model's `delay` (log 3). -/
def Obligations.ResetAbandonsAndClears : Prop :=
  ∀ (s : State) (rest : List HostAction), s.program = .reset :: rest → s.phase = .idle ∨ 0 < s.delay →
    ∃ t, step s = .next t ∧ t.phase = .idle ∧ t.status.toWord = 0 ∧ t.inLen = 0 ∧ t.outLen = 0 ∧
      t.program = rest ∧ step t = hostStep t

/-- R26, R28, R30, R37, R230: the values the spec gives for reset, in State.reset. -/
def Obligations.ResetState : Prop :=
  State.reset.phase = .idle ∧ State.reset.status.toWord = 0 ∧ State.reset.inLen = 0 ∧ State.reset.outLen = 0

/-! ### The whole machine -/

/-- R31 to R34: every step, from every state in which STATUS and PHASE agree, leaves a state in which they agree. -/
def Obligations.StepKeepsStatusAndPhaseConsistent : Prop :=
  ∀ s t : State, s.ControlOk → step s = .next t → t.ControlOk

/-- R28, R150: every step keeps OUT_LEN one of 0, 24 and 8, and OUT ending with SUFFIX while OUT_LEN is 24. -/
def Obligations.StepKeepsOutputFramed : Prop :=
  ∀ s t : State, s.OutputOk → step s = .next t → t.OutputOk

/-- The invariants hold right after reset, and HOST's program there has only actions HOST can do. -/
def Obligations.ResetMeetsInvariants : Prop :=
  State.reset.ControlOk ∧ State.reset.OutputOk ∧ State.reset.ProgramOk

/-- R51, R200: nothing stops a run but an access HOST cannot make. With a program of well-formed actions every step
gives a next state, whose program is well-formed again; and a step that is refused had an action R51 excludes at the
head of HOST's program. -/
def Obligations.OnlyBadAccessesStopTheMachine : Prop :=
  (∀ s : State, s.ProgramOk → ∃ t, step s = .next t ∧ t.ProgramOk) ∧
  (∀ (s : State) (r : Refusal), step s = .refused r → ∃ a rest, s.program = a :: rest ∧ a.wf = false)

/-- R238, R239: while a command is in flight and HOST makes only accesses it can make, the block is IDLE again after
at most one step more than the latency left. The count of a latency in steps, `delay`, is the model's choice (log 3). -/
def Obligations.CompletionIsCertain : Prop :=
  ∀ (s : State) (op : Instr), s.phase = .busy op → s.ProgramOk →
    ∃ (n : Nat) (t : State), n ≤ s.delay + 1 ∧ stepN n s = .next t ∧ t.phase = .idle

/-- R64, R85, R204: whatever HOST does while a command is in flight, short of a reset, the command completes with the
results it would have had at once: the inputs it computes from are those at its acceptance. Only WBUSY, HOST's own
fields and the draw counter may differ. The bound on the number of steps is the model's choice: it counts a latency in
HOST steps, `delay` (log 3), where the spec leaves it open. -/
def Obligations.HostCannotDisturbCommandInFlight : Prop :=
  ∀ (s : State) (op : Instr), s.phase = .busy op → s.ProgramOk → s.NoReset →
    ∃ (n : Nat) (t u : State), n ≤ s.delay + 1 ∧ stepN n s = .next t ∧ exec op s = .next u ∧
      t.v0 = u.v0 ∧ t.v1 = u.v1 ∧ t.inBuf = u.inBuf ∧ t.inLen = u.inLen ∧ t.outBuf = u.outBuf ∧
      t.outLen = u.outLen ∧ t.phase = u.phase ∧ t.status.busy = u.status.busy ∧ t.status.done = u.status.done ∧
      t.status.err = u.status.err ∧ t.status.ecode = u.status.ecode

/-- R208: both orders of a HOST write and the completion it races with are runs of the model. From the same IDLE
registers, HOST issues ENCIPHER and then writes V0: with latency 0 the write lands after the completion, with latency
1 it is dropped. The latency is given as data (R239, log 3). -/
def Obligations.WriteRaceHasBothOutcomes : Prop :=
  ∀ (s : State) (x : Word), s.phase = .idle →
    let racing (latency : Nat) : State :=
      { s with program := [lineWr offCmd (encode .encipher), lineWr offV0 x], givenLatencies := [latency] }
    (∃ t, stepN 3 (racing 0) = .next t ∧ t.phase = .idle ∧ t.v0 = x ∧ t.v1 = (encipher s.v0 s.v1 keyWords).2 ∧
      t.status.wbusy = s.status.wbusy) ∧
    (∃ t, stepN 3 (racing 1) = .next t ∧ t.phase = .idle ∧ t.v0 = (encipher s.v0 s.v1 keyWords).1 ∧
      t.v1 = (encipher s.v0 s.v1 keyWords).2 ∧ t.status.wbusy = true)

/-- R63, R234, R238: a WAIT line ends. With WAIT at the head of HOST's program while a command is in flight, after at
most two steps more than the latency left the block is IDLE, HOST has gone past the line, and DONE or ERR is set. The
bound on the number of steps is the model's choice: it counts a latency in HOST steps, `delay` (log 3). -/
def Obligations.WaitEndsWhenCommandCompletes : Prop :=
  ∀ (s : State) (op : Instr) (rest : List HostAction), s.ControlOk → s.phase = .busy op →
    s.program = lineWait :: rest →
    ∃ (n : Nat) (t : State), n ≤ s.delay + 2 ∧ stepN n s = .next t ∧ t.program = rest ∧ t.phase = .idle ∧
      (t.status.done = true ∨ t.status.err = true)

/-- R25, R26: IN and IN_LEN are HOST's. A step that changes one of them is a HOST write to it, made while IDLE, or a
reset. -/
def Obligations.OnlyHostChangesInputs : Prop :=
  ∀ s t : State, step s = .next t → t.inBuf ≠ s.inBuf ∨ t.inLen ≠ s.inLen →
    ∃ a rest, s.program = a :: rest ∧ (a = .reset ∨
      s.phase = .idle ∧ ∃ off v, a = lineWr off v ∧
        (off = 0x008 ∧ t.inLen = v ∧ t.inBuf = s.inBuf ∨
          ∃ i : Fin 24, off = 0x100 + 4 * i.val ∧ t.inLen = s.inLen ∧ t.inBuf = s.inBuf.set i.val (v.setWidth 8)))

/-- R27, R28: OUT and OUT_LEN are ENGINE's. A step that changes one of them is a success completion of ENCODE or
DECODE, which leaves OUT_LEN 24 or 8, or a reset. -/
def Obligations.OnlyFramedSuccessChangesOutputs : Prop :=
  ∀ s t : State, step s = .next t → t.outBuf ≠ s.outBuf ∨ t.outLen ≠ s.outLen →
    (s.phase = .busy .encode ∧ t.status.done = true ∧ t.outLen = 24) ∨
    (s.phase = .busy .decode ∧ t.status.done = true ∧ t.outLen = 8) ∨
    ∃ rest, s.program = .reset :: rest

/-- R32, R33: DONE and ERR rise only so. A step after which DONE is newly 1 is a completion of the command in flight;
one after which ERR is newly 1 is a completion, or HOST's write of an illegal word to CMD while IDLE, and then ECODE
is 3. -/
def Obligations.DoneAndErrRiseOnlyAtCompletions : Prop :=
  ∀ s t : State, step s = .next t →
    (s.status.done = false → t.status.done = true → ∃ op, s.phase = .busy op ∧ exec op s = .next t) ∧
    (s.status.err = false → t.status.err = true →
      (∃ op, s.phase = .busy op ∧ exec op s = .next t) ∨
      ∃ w rest, s.phase = .idle ∧ s.program = lineWr offCmd w :: rest ∧
        decode w = .error .illegalCommandWord ∧ t.status.ecode = .illegalCommand)

/-- R90: LOAD_IN stores the first 24 bytes it is given at most, in order, and sets IN_LEN to the true length (here
below 2^32, R5). It takes one HOST step for each byte stored and one for the length; every other register is as it
was. -/
def Obligations.LoadInFillsTheInputBuffer : Prop :=
  ∀ (s : State) (b : List Byte) (rest : List HostAction), s.phase = .idle → s.program = loadIn b ++ rest →
    b.length < 2 ^ 32 →
    ∃ buf : Vector Byte 24,
      stepN (min b.length 24 + 1) s =
        .next { s with inBuf := buf, inLen := BitVec.ofNat 32 b.length, program := rest } ∧
      ∀ (i : Fin 24), buf[i.val] = (b[i.val]?).getD s.inBuf[i.val]

/-- R90: READ_OUT n reads OUT[0], …, OUT[n-1] in order and names the values r[0], …, r[n-1]; nothing else changes. -/
def Obligations.ReadOutReadsTheOutputBuffer : Prop :=
  ∀ (s : State) (n r : Nat) (rest : List HostAction), s.phase = .idle → n ≤ 24 → s.program = readOut n r ++ rest →
    stepN n s = .next { s with
      program := rest
      reads := ((s.outBuf.toList.take n).mapIdx
        (fun i x => (HostName.elem r i, BitVec.setWidth 32 x))).reverse ++ s.reads }

/-- R50, R68: the block sees a bus address in its 4096-byte window as the offset from WINDOW_BASE, and no other
address, whatever WINDOW_BASE is. That bus addresses are natural numbers, which do not wrap, is the model's choice
(log 8). -/
def Obligations.WindowIsBaseAndOffset : Prop :=
  (∀ off : Nat, off ≤ 0xFFF → offsetOfBus (busAddress off) = some off) ∧
  (∀ addr off : Nat, offsetOfBus addr = some off → addr = busAddress off ∧ off ≤ 0xFFF)
end

