-- ==== Sys2Proof/Laws/Cipher.lean ====
section
/-! SUPPORT. The round in the form of MIX, one round's inverse, and a run's last round. -/

namespace Sys2Proof.Machine

/-- R101: the encipher round in terms of MIX. -/
theorem encRound_eq_mix (k : Key) (r : RoundState) :
    encRound k r =
      { v0 := r.v0 + mix r.v1 r.s (keyWord k r.s)
        v1 := r.v1 + mix (r.v0 + mix r.v1 r.s (keyWord k r.s)) (r.s + delta) (keyWord k ((r.s + delta) >>> 11))
        s := r.s + delta } := rfl

/-- R107: the decipher round in terms of MIX. -/
theorem decRound_eq_mix (k : Key) (r : RoundState) :
    decRound k r =
      { v0 := r.v0 - mix (r.v1 - mix r.v0 r.s (keyWord k (r.s >>> 11))) (r.s - delta) (keyWord k (r.s - delta))
        v1 := r.v1 - mix r.v0 r.s (keyWord k (r.s >>> 11))
        s := r.s - delta } := rfl

@[simp] theorem encRound_s (k : Key) (r : RoundState) : (encRound k r).s = r.s + delta := rfl

@[simp] theorem decRound_s (k : Key) (r : RoundState) : (decRound k r).s = r.s - delta := rfl

/-- R107: a decipher round undoes an encipher round. -/
theorem decRound_encRound (k : Key) (r : RoundState) : decRound k (encRound k r) = r := by
  simp [decRound_eq_mix, encRound_eq_mix]

/-- An encipher round undoes a decipher round. -/
theorem encRound_decRound (k : Key) (r : RoundState) : encRound k (decRound k r) = r := by
  simp [decRound_eq_mix, encRound_eq_mix]

/-- The last of `n + 1` encipher rounds, split off. -/
theorem encRounds_succ_last (k : Key) (n : Nat) (r : RoundState) :
    encRounds k (n + 1) r = encRound k (encRounds k n r) := by
  induction n generalizing r with
  | zero => rfl
  | succ n ih => exact ih (encRound k r)

/-- The last of `n + 1` decipher rounds, split off. -/
theorem decRounds_succ_last (k : Key) (n : Nat) (r : RoundState) :
    decRounds k (n + 1) r = decRound k (decRounds k n r) := by
  induction n generalizing r with
  | zero => rfl
  | succ n ih => exact ih (decRound k r)

end Sys2Proof.Machine
end

