-- ==== Sys2Proof/Laws/Codec.lean ====
section
/-! SUPPORT. Slices, joins and the codec's words and bytes, one lemma each. -/

namespace Sys2Proof.Machine

@[simp] theorem slice_getElem {n : Nat} (b : Vector Byte n) (i m : Nat) (h : i + m ≤ n) (j : Nat) (hj : j < m) :
    (slice b i m h)[j] = b[i + j] := by
  simp [slice]

theorem join24_getElem (head : Vector Byte 8) (tail : Vector Byte 16) (i : Nat) (hi : i < 24) :
    (join24 head tail)[i] = if h : i < 8 then head[i] else tail[i - 8] :=
  Vector.getElem_append hi

@[simp] theorem slice_join24_head (head : Vector Byte 8) (tail : Vector Byte 16) :
    slice (join24 head tail) 0 8 = head := by
  refine Vector.ext fun i hi => ?_
  simp [join24_getElem, hi]

@[simp] theorem slice_join24_tail (head : Vector Byte 8) (tail : Vector Byte 16) :
    slice (join24 head tail) 8 16 = tail := by
  refine Vector.ext fun i hi => ?_
  simp [join24_getElem]

/-- 24 bytes are their first 8 and their last 16. -/
theorem join24_slices (b : Vector Byte 24) : join24 (slice b 0 8) (slice b 8 16) = b := by
  refine Vector.ext fun i hi => ?_
  rw [join24_getElem]
  split
  · simp
  · simp only [slice_getElem]
    congr 1
    omega

theorem slice_toList {n : Nat} (b : Vector Byte n) (i m : Nat) (h : i + m ≤ n) :
    (slice b i m h).toList = (b.toList.drop i).take m := by
  apply List.ext_getElem
  · simp
    omega
  · intro j h1 h2
    simp [slice]

theorem join24_toList (head : Vector Byte 8) (tail : Vector Byte 16) :
    (join24 head tail).toList = head.toList ++ tail.toList := Vector.toList_append

theorem unblock_toList (v0 v1 : Word) : (unblock v0 v1).toList = (bytesBe v0).toList ++ (bytesBe v1).toList :=
  Vector.toList_append

theorem unblock_getElem (v0 v1 : Word) (i : Nat) (hi : i < 8) :
    (unblock v0 v1)[i] = if h : i < 4 then (bytesBe v0)[i] else (bytesBe v1)[i - 4] :=
  Vector.getElem_append hi

end Sys2Proof.Machine
end

