-- ==== Sys2Proof/Laws/State.lean ====
section
/-! SUPPORT. One lemma per field per update of State and of STATUS, each true by definition, so that no proof unfolds
a record update. -/

namespace Sys2Proof.Machine

section StatusFields

variable (st : Status)

@[simp] theorem Status.accepted_busy : st.accepted.busy = true := rfl
@[simp] theorem Status.accepted_done : st.accepted.done = false := rfl
@[simp] theorem Status.accepted_err : st.accepted.err = false := rfl
@[simp] theorem Status.accepted_ecode : st.accepted.ecode = .none := rfl
@[simp] theorem Status.accepted_wbusy : st.accepted.wbusy = st.wbusy := rfl
@[simp] theorem Status.succeeded_busy : st.succeeded.busy = false := rfl
@[simp] theorem Status.succeeded_done : st.succeeded.done = true := rfl
@[simp] theorem Status.succeeded_err : st.succeeded.err = false := rfl
@[simp] theorem Status.succeeded_ecode : st.succeeded.ecode = .none := rfl
@[simp] theorem Status.succeeded_wbusy : st.succeeded.wbusy = st.wbusy := rfl
@[simp] theorem Status.failed_busy (e : ErrorKind) : (st.failed e).busy = false := rfl
@[simp] theorem Status.failed_done (e : ErrorKind) : (st.failed e).done = false := rfl
@[simp] theorem Status.failed_err (e : ErrorKind) : (st.failed e).err = true := rfl
@[simp] theorem Status.failed_ecode (e : ErrorKind) : (st.failed e).ecode = e.code := rfl
@[simp] theorem Status.failed_wbusy (e : ErrorKind) : (st.failed e).wbusy = st.wbusy := rfl
@[simp] theorem Status.writeDropped_busy : st.writeDropped.busy = st.busy := rfl
@[simp] theorem Status.writeDropped_done : st.writeDropped.done = st.done := rfl
@[simp] theorem Status.writeDropped_err : st.writeDropped.err = st.err := rfl
@[simp] theorem Status.writeDropped_ecode : st.writeDropped.ecode = st.ecode := rfl
@[simp] theorem Status.writeDropped_wbusy : st.writeDropped.wbusy = true := rfl

end StatusFields

section StateFields

variable (s : State)

@[simp] theorem succeed_v0 : (succeed s).v0 = s.v0 := rfl
@[simp] theorem succeed_v1 : (succeed s).v1 = s.v1 := rfl
@[simp] theorem succeed_inBuf : (succeed s).inBuf = s.inBuf := rfl
@[simp] theorem succeed_inLen : (succeed s).inLen = s.inLen := rfl
@[simp] theorem succeed_outBuf : (succeed s).outBuf = s.outBuf := rfl
@[simp] theorem succeed_outLen : (succeed s).outLen = s.outLen := rfl
@[simp] theorem succeed_status : (succeed s).status = s.status.succeeded := rfl
@[simp] theorem succeed_phase : (succeed s).phase = .idle := rfl
@[simp] theorem succeed_program : (succeed s).program = s.program := rfl
@[simp] theorem succeed_reads : (succeed s).reads = s.reads := rfl
@[simp] theorem succeed_givenLatencies : (succeed s).givenLatencies = s.givenLatencies := rfl
@[simp] theorem succeed_delay : (succeed s).delay = s.delay := rfl
@[simp] theorem succeed_draws : (succeed s).draws = s.draws := rfl

@[simp] theorem raiseError_v0 (e : ErrorKind) : (raiseError e s).v0 = s.v0 := rfl
@[simp] theorem raiseError_v1 (e : ErrorKind) : (raiseError e s).v1 = s.v1 := rfl
@[simp] theorem raiseError_inBuf (e : ErrorKind) : (raiseError e s).inBuf = s.inBuf := rfl
@[simp] theorem raiseError_inLen (e : ErrorKind) : (raiseError e s).inLen = s.inLen := rfl
@[simp] theorem raiseError_outBuf (e : ErrorKind) : (raiseError e s).outBuf = s.outBuf := rfl
@[simp] theorem raiseError_outLen (e : ErrorKind) : (raiseError e s).outLen = s.outLen := rfl
@[simp] theorem raiseError_status (e : ErrorKind) : (raiseError e s).status = s.status.failed e := rfl
@[simp] theorem raiseError_phase (e : ErrorKind) : (raiseError e s).phase = .idle := rfl
@[simp] theorem raiseError_program (e : ErrorKind) : (raiseError e s).program = s.program := rfl
@[simp] theorem raiseError_reads (e : ErrorKind) : (raiseError e s).reads = s.reads := rfl
@[simp] theorem raiseError_givenLatencies (e : ErrorKind) : (raiseError e s).givenLatencies = s.givenLatencies := rfl
@[simp] theorem raiseError_delay (e : ErrorKind) : (raiseError e s).delay = s.delay := rfl
@[simp] theorem raiseError_draws (e : ErrorKind) : (raiseError e s).draws = s.draws := rfl

@[simp] theorem accept_v0 (op : Instr) : (accept op s).v0 = s.v0 := rfl
@[simp] theorem accept_v1 (op : Instr) : (accept op s).v1 = s.v1 := rfl
@[simp] theorem accept_inBuf (op : Instr) : (accept op s).inBuf = s.inBuf := rfl
@[simp] theorem accept_inLen (op : Instr) : (accept op s).inLen = s.inLen := rfl
@[simp] theorem accept_outBuf (op : Instr) : (accept op s).outBuf = s.outBuf := rfl
@[simp] theorem accept_outLen (op : Instr) : (accept op s).outLen = s.outLen := rfl
@[simp] theorem accept_status (op : Instr) : (accept op s).status = s.status.accepted := rfl
@[simp] theorem accept_phase (op : Instr) : (accept op s).phase = .busy op := rfl
@[simp] theorem accept_program (op : Instr) : (accept op s).program = s.program := rfl
@[simp] theorem accept_reads (op : Instr) : (accept op s).reads = s.reads := rfl
@[simp] theorem accept_givenLatencies (op : Instr) : (accept op s).givenLatencies = s.givenLatencies.tail := rfl
@[simp] theorem accept_delay (op : Instr) : (accept op s).delay = nextLatency op s := rfl
@[simp] theorem accept_draws (op : Instr) : (accept op s).draws = s.draws + 1 := rfl

@[simp] theorem busyWrite_v0 : (busyWrite s).v0 = s.v0 := rfl
@[simp] theorem busyWrite_v1 : (busyWrite s).v1 = s.v1 := rfl
@[simp] theorem busyWrite_inBuf : (busyWrite s).inBuf = s.inBuf := rfl
@[simp] theorem busyWrite_inLen : (busyWrite s).inLen = s.inLen := rfl
@[simp] theorem busyWrite_outBuf : (busyWrite s).outBuf = s.outBuf := rfl
@[simp] theorem busyWrite_outLen : (busyWrite s).outLen = s.outLen := rfl
@[simp] theorem busyWrite_status : (busyWrite s).status = s.status.writeDropped := rfl
@[simp] theorem busyWrite_phase : (busyWrite s).phase = s.phase := rfl
@[simp] theorem busyWrite_program : (busyWrite s).program = s.program := rfl
@[simp] theorem busyWrite_reads : (busyWrite s).reads = s.reads := rfl
@[simp] theorem busyWrite_givenLatencies : (busyWrite s).givenLatencies = s.givenLatencies := rfl
@[simp] theorem busyWrite_delay : (busyWrite s).delay = s.delay := rfl
@[simp] theorem busyWrite_draws : (busyWrite s).draws = s.draws := rfl

@[simp] theorem countDown_v0 : (countDown s).v0 = s.v0 := rfl
@[simp] theorem countDown_v1 : (countDown s).v1 = s.v1 := rfl
@[simp] theorem countDown_inBuf : (countDown s).inBuf = s.inBuf := rfl
@[simp] theorem countDown_inLen : (countDown s).inLen = s.inLen := rfl
@[simp] theorem countDown_outBuf : (countDown s).outBuf = s.outBuf := rfl
@[simp] theorem countDown_outLen : (countDown s).outLen = s.outLen := rfl
@[simp] theorem countDown_status : (countDown s).status = s.status := rfl
@[simp] theorem countDown_phase : (countDown s).phase = s.phase := rfl
@[simp] theorem countDown_program : (countDown s).program = s.program := rfl
@[simp] theorem countDown_reads : (countDown s).reads = s.reads := rfl
@[simp] theorem countDown_givenLatencies : (countDown s).givenLatencies = s.givenLatencies := rfl
@[simp] theorem countDown_delay : (countDown s).delay = s.delay - 1 := rfl
@[simp] theorem countDown_draws : (countDown s).draws = s.draws := rfl

@[simp] theorem takeReset_v0 : (takeReset s).v0 = Config.unspecV0 s.draws := rfl
@[simp] theorem takeReset_v1 : (takeReset s).v1 = Config.unspecV1 s.draws := rfl
@[simp] theorem takeReset_inBuf : (takeReset s).inBuf = Vector.ofFn fun i => Config.unspecIn s.draws i := rfl
@[simp] theorem takeReset_inLen : (takeReset s).inLen = 0 := rfl
@[simp] theorem takeReset_outBuf : (takeReset s).outBuf = Vector.ofFn fun i => Config.unspecOut s.draws i := rfl
@[simp] theorem takeReset_outLen : (takeReset s).outLen = 0 := rfl
@[simp] theorem takeReset_status : (takeReset s).status = .zero := rfl
@[simp] theorem takeReset_phase : (takeReset s).phase = .idle := rfl
@[simp] theorem takeReset_program : (takeReset s).program = s.program := rfl
@[simp] theorem takeReset_reads : (takeReset s).reads = s.reads := rfl
@[simp] theorem takeReset_givenLatencies : (takeReset s).givenLatencies = s.givenLatencies := rfl
@[simp] theorem takeReset_delay : (takeReset s).delay = 0 := rfl
@[simp] theorem takeReset_draws : (takeReset s).draws = s.draws + 1 := rfl

end StateFields

end Sys2Proof.Machine
end

