-- ==== Sys2Proof/Laws/Ops.lean ====
section
/-! SUPPORT. What each shared operation can do, said once. -/

namespace Sys2Proof.Machine

/-! ### The register map (R52) -/

theorem regAt_inOffset (i : Nat) (h : i < 24) : regAt (inOffset i) = .inByte ⟨i, h⟩ := by
  unfold regAt inOffset
  repeat rw [if_neg (by omega)]
  rw [dif_pos (by omega)]
  congr 2
  omega

theorem regAt_outOffset (i : Nat) (h : i < 24) : regAt (outOffset i) = .outByte ⟨i, h⟩ := by
  unfold regAt outOffset
  repeat rw [if_neg (by omega)]
  rw [dif_neg (by omega), dif_pos (by omega)]
  congr 2
  omega

/-- The reserved ranges of R52. -/
theorem regAt_reserved (off : Nat)
    (h : (0x018 ≤ off ∧ off < 0x100) ∨ (0x160 ≤ off ∧ off < 0x200) ∨ 0x260 ≤ off) : regAt off = .reserved := by
  unfold regAt
  repeat rw [if_neg (by omega)]
  rw [dif_neg (by omega), dif_neg (by omega)]

/-- R52, read from the register: the offsets it stands at. -/
def Reg.standsAt (off : Nat) : Reg → Prop
  | .cmd => off = 0x000
  | .status => off = 0x004
  | .inLen => off = 0x008
  | .outLen => off = 0x00C
  | .v0 => off = 0x010
  | .v1 => off = 0x014
  | .inByte i => off = inOffset i.val
  | .outByte i => off = outOffset i.val
  | .reserved => off ≠ 0x000 ∧ off ≠ 0x004 ∧ off ≠ 0x008 ∧ off ≠ 0x00C ∧ off ≠ 0x010 ∧ off ≠ 0x014

/-- The register at an offset stands there. -/
theorem regAt_standsAt (off : Nat) : (regAt off).standsAt off := by
  unfold regAt
  split_ifs <;> simp only [Reg.standsAt, inOffset, outOffset] <;> omega

/-! ### Accesses (R51) -/

theorem legalAccess_iff (off width : Nat) :
    legalAccess off width = true ↔ width = 4 ∧ off % 4 = 0 ∧ off ≤ 0xFFC := by
  simp [legalAccess, and_assoc]

theorem accessRefusal_eq_none_iff (off width : Nat) :
    accessRefusal off width = none ↔ legalAccess off width = true := by
  unfold accessRefusal legalAccess
  split_ifs <;> simp_all

theorem withAccess_legal {off width : Nat} (h : legalAccess off width = true) (go : State) :
    withAccess off width go = .next go := by
  rw [withAccess, (accessRefusal_eq_none_iff off width).2 h]

theorem withAccess_next {off width : Nat} {go t : State} (h : withAccess off width go = .next t) :
    legalAccess off width = true ∧ t = go := by
  unfold withAccess at h
  split at h
  · cases h
  · next hn => exact ⟨(accessRefusal_eq_none_iff off width).1 hn, by cases h; rfl⟩

/-! ### Issue (R84) -/

theorem issue_of_decode {w : Word} {op : Instr} (h : decode w = .ok op) (s : State) : issue w s = accept op s := by
  simp [issue, h]

theorem issue_of_illegal {w : Word} (h : decode w = .error .illegalCommandWord) (s : State) :
    issue w s = raiseError .illegalCommand s := by
  simp [issue, h]

/-- A command word is accepted or raises IllegalCommand, and nothing else. -/
theorem issue_cases (w : Word) (s : State) :
    (∃ op, decode w = .ok op ∧ issue w s = accept op s) ∨
      (decode w = .error .illegalCommandWord ∧ issue w s = raiseError .illegalCommand s) := by
  cases h : decode w with
  | ok op => exact .inl ⟨op, rfl, issue_of_decode h s⟩
  | error e => cases e; exact .inr ⟨rfl, issue_of_illegal h s⟩

/-! ### Bus reads (R53) -/

theorem memRead_idle {s : State} (h : s.phase = .idle) (off : Nat) : memRead off s = (regValue (regAt off) s, s) := by
  simp [memRead, h]

/-- The state after a bus read is the state before it, but for the draw an UNSPEC read takes. -/
theorem memRead_state (off : Nat) (s : State) :
    ∃ n, (memRead off s).2 = { s with draws := n } ∧ (s.phase = .idle → n = s.draws) := by
  unfold memRead
  split
  · exact ⟨s.draws, rfl, fun _ => rfl⟩
  · split
    · exact ⟨s.draws + 1, rfl, by simp_all⟩
    · exact ⟨s.draws, rfl, fun _ => rfl⟩

/-- STATUS, IN_LEN, IN[i], CMD and reserved offsets read as they are in every PHASE. -/
theorem memRead_plain {off : Nat} (h : (regAt off).holdsResult = false) (s : State) :
    memRead off s = (regValue (regAt off) s, s) := by
  unfold memRead
  split
  · rfl
  · simp [h]

@[simp] theorem memRead_reads (off : Nat) (s : State) : (memRead off s).2.reads = s.reads := by
  obtain ⟨n, h, -⟩ := memRead_state off s
  rw [h]

@[simp] theorem memRead_program (off : Nat) (s : State) : (memRead off s).2.program = s.program := by
  obtain ⟨n, h, -⟩ := memRead_state off s
  rw [h]

/-- RD (R89): the state after the read, the value bound to its name. -/
theorem hostRead_eq (off : Nat) (name : HostName) (s : State) :
    hostRead off name s = { (memRead off s).2 with reads := (name, (memRead off s).1) :: s.reads } := by
  simp [hostRead]

/-- POLL (R89), the last read: the line is done. -/
theorem hostPoll_done {off : Nat} {mask val : Word} {s : State} (h : (memRead off s).1 &&& mask = val) :
    hostPoll off mask val s = (memRead off s).2 := by
  simp [hostPoll, h]

/-- POLL (R89), any read before the last: the line stays. -/
theorem hostPoll_again {off : Nat} {mask val : Word} {s : State} (h : (memRead off s).1 &&& mask ≠ val) :
    hostPoll off mask val s = { (memRead off s).2 with program := .poll off mask val :: s.program } := by
  simp [hostPoll, h]

/-! ### Bus writes (R54) -/

theorem whenIdle_idle {s : State} (h : s.phase = .idle) (t : State) : whenIdle s t = t := by
  simp [whenIdle, h]

theorem whenIdle_busy {s : State} {op : Instr} (h : s.phase = .busy op) (t : State) : whenIdle s t = busyWrite s := by
  simp [whenIdle, h]

/-- While BUSY a bus write changes STATUS.WBUSY at most. -/
theorem memWrite_busy {s : State} {op : Instr} (h : s.phase = .busy op) (off : Nat) (v : Word) :
    ∃ b, memWrite off v s = { s with status := { s.status with wbusy := b } } := by
  unfold memWrite
  split <;> try rw [whenIdle_busy h]
  · unfold Status.writeOneToClear
    split
    · exact ⟨false, rfl⟩
    · exact ⟨s.status.wbusy, rfl⟩
  all_goals first | exact ⟨true, rfl⟩ | exact ⟨s.status.wbusy, rfl⟩

/-! ### Steps (R20, R85) -/

/-- What one action of HOST does when it gives a next state. -/
theorem hostAct_next {a : HostAction} {s t : State} (h : hostAct a s = .next t) :
    a.wf = true ∧
      match a with
      | .read off _ name => t = hostRead off name s
      | .write off _ v => t = memWrite off v s
      | .poll off mask val => t = hostPoll off mask val s
      | .reset => t = takeReset s := by
  cases a with
  | read off width name => exact withAccess_next h
  | write off width v => exact withAccess_next h
  | poll off mask val => exact withAccess_next h
  | reset => cases h; exact ⟨rfl, rfl⟩

/-- A well-formed action is never refused. -/
theorem hostAct_wf {a : HostAction} (h : a.wf = true) (s : State) : ∃ t, hostAct a s = .next t := by
  cases a with
  | read off width name => exact ⟨_, withAccess_legal h _⟩
  | write off width v => exact ⟨_, withAccess_legal h _⟩
  | poll off mask val => exact ⟨_, withAccess_legal h _⟩
  | reset => exact ⟨_, rfl⟩

/-- Every command completes in every state. -/
theorem exec_next (op : Instr) (s : State) : ∃ t, exec op s = .next t := by
  cases op
  · simp only [exec, execEncode]; split <;> exact ⟨_, rfl⟩
  · simp only [exec, execDecode]; split <;> [split; skip] <;> exact ⟨_, rfl⟩
  · exact ⟨_, rfl⟩
  · exact ⟨_, rfl⟩

/-- What a completion leaves: in every case PHASE is IDLE, IN, IN_LEN, WBUSY and the model's own fields are as they
were, and STATUS shows a success or an error. -/
theorem exec_cases {op : Instr} {s t : State} (h : exec op s = .next t) :
    (∃ v0 v1 out len, (len = s.outLen ∧ out = s.outBuf ∨ op = .encode ∧ len = 24 ∧ slice out 8 16 = suffix ∨
        op = .decode ∧ len = 8) ∧
      t = succeed { s with v0 := v0, v1 := v1, outBuf := out, outLen := len }) ∨
    ∃ e, (e = .invalidLength ∨ e = .formatMismatch) ∧ (op = .encode ∨ op = .decode) ∧ t = raiseError e s := by
  cases op
  · simp only [exec, execEncode] at h
    split at h <;> cases h
    · exact .inl ⟨_, _, _, _, .inr (.inl ⟨rfl, rfl, slice_join24_tail _ _⟩), rfl⟩
    · exact .inr ⟨_, .inl rfl, .inl rfl, rfl⟩
  · simp only [exec, execDecode] at h
    split at h
    · split at h <;> cases h
      · exact .inl ⟨_, _, _, _, .inr (.inr ⟨rfl, rfl⟩), rfl⟩
      · exact .inr ⟨_, .inr rfl, .inr rfl, rfl⟩
    · cases h; exact .inr ⟨_, .inl rfl, .inr rfl, rfl⟩
  · cases h; exact .inl ⟨_, _, _, _, .inl ⟨rfl, rfl⟩, rfl⟩
  · cases h; exact .inl ⟨_, _, _, _, .inl ⟨rfl, rfl⟩, rfl⟩

/-- A step is ENGINE's completion, HOST waiting, or one action of HOST; `u` is the state HOST acts on. -/
theorem step_cases {s t : State} (h : step s = .next t) :
    (∃ op, s.phase = .busy op ∧ exec op s = .next t) ∨
      (s.phase = .idle ∧ s.program = [] ∧ t = s) ∨
      ∃ a rest u, s.program = a :: rest ∧ hostAct a u = .next t ∧
        ((s.phase = .idle ∧ u = { s with program := rest }) ∨
          ((∃ op, s.phase = .busy op) ∧ 0 < s.delay ∧ u = { countDown s with program := rest })) := by
  unfold step at h
  cases hp : s.phase with
  | idle =>
    simp only [hp, hostStep] at h
    cases hq : s.program with
    | nil => simp only [hq] at h; cases h; exact .inr (.inl ⟨rfl, rfl, rfl⟩)
    | cons a rest => simp only [hq] at h; exact .inr (.inr ⟨a, rest, _, rfl, h, .inl ⟨rfl, rfl⟩⟩)
  | busy op =>
    simp only [hp] at h
    by_cases he : engineMoves s = true
    · rw [if_pos he] at h; exact .inl ⟨op, rfl, h⟩
    · rw [if_neg he] at h
      simp only [engineMoves, Bool.or_eq_true, beq_iff_eq, List.isEmpty_iff, not_or] at he
      cases hq : s.program with
      | nil => exact absurd hq he.2
      | cons a rest =>
        simp only [hostStep, countDown_program, hq] at h
        exact .inr (.inr ⟨a, rest, _, rfl, h, .inr ⟨⟨op, rfl⟩, Nat.pos_of_ne_zero he.1, rfl⟩⟩)

end Sys2Proof.Machine
end

