-- ==== Sys2Proof/Laws/PerInstr.lean ====
section
/-! SUPPORT. Statements about every command as syntax, one lemma per command. -/

namespace Sys2Proof.Laws.CommandEncoding

/-- The command is well-formed, its word decodes to it, and so does the word as the opcode table numbers it. -/
def Statement (i : Instr) : Prop :=
  i.wf = true ∧ decode (encode i) = .ok i ∧ decodeTableWord 32 (encode i).toNat = some i

theorem encode : Statement .encode := by unfold Statement; decide

theorem decode : Statement .decode := by unfold Statement; decide

theorem encipher : Statement .encipher := by unfold Statement; decide

theorem decipher : Statement .decipher := by unfold Statement; decide

end Sys2Proof.Laws.CommandEncoding
end

