-- ==== Sys2Proof/Tests/Slice0.lean ====
section
/-! SUPPORT. The model's own tests. Every expected value is one the spec prints (95_test_vectors.md, or the rule named);
then, for each statement with hypotheses, states and operands that meet them. -/

namespace Sys2Proof.Tests

open Sys2Proof.Machine

/-- An IDLE block whose registers are all 0 and whose HOST has nothing to do. -/
def base : State where
  v0 := 0
  v1 := 0
  inBuf := Vector.replicate 24 0
  inLen := 0
  outBuf := Vector.replicate 24 0
  outLen := 0
  status := .zero
  phase := .idle
  program := []
  reads := []
  givenLatencies := []
  delay := 0
  draws := 0

/-- `base` with `op` in flight, `d` HOST steps before its completion, and this HOST program. -/
def inFlight (op : Instr) (d : Nat) (p : List HostAction) : State :=
  { base with phase := .busy op, status := base.status.accepted, delay := d, program := p }

/-- `base` presenting `p` to a framed command: the bytes in IN and their number in IN_LEN. -/
def presenting (p : Vector Byte 24) (n : Word) : State := { base with inBuf := p, inLen := n }

/-- The bytes of `12345678`, then zeros. -/
def plain : Vector Byte 24 := join24 #v[0x31, 0x32, 0x33, 0x34, 0x35, 0x36, 0x37, 0x38] (Vector.replicate 16 0)

/-- P1's `o`: the encoding of `12345678`, all 24 bytes as the spec prints them. -/
def encoded : Vector Byte 24 :=
  #v[0xC3, 0x66, 0x7D, 0xDF, 0x98, 0x01, 0x94, 0xE4, 0xE8, 0xB1, 0x0C, 0x1F, 0x8B, 0xC3, 0x59, 0xBE,
     0xE8, 0xB1, 0x0C, 0x1F, 0x8B, 0xC3, 0x59, 0x5B]

/-- The state an outcome goes on with. -/
def after (o : Host.Outcome State Fault Refusal) : Option State :=
  match o with
  | .next t => some t
  | .fault _ => none
  | .refused _ => none

/-- Why an outcome is a refusal. -/
def refusal (o : Host.Outcome State Fault Refusal) : Option Refusal :=
  match o with
  | .next _ => none
  | .fault _ => none
  | .refused r => some r

/-! ### Command words (R81, R82; the `encoding` of each row of the opcode table) -/

theorem test_decode_encode : decode 0b00000000000000000000000000000001#32 = .ok .encode := by decide
theorem test_decode_decode : decode 0b00000000000000000000000000000010#32 = .ok .decode := by decide
theorem test_decode_encipher : decode 0b00000000000000000000000000000011#32 = .ok .encipher := by decide
theorem test_decode_decipher : decode 0b00000000000000000000000000000100#32 = .ok .decipher := by decide
theorem test_decode_upper_bits_count : decode 0b10000000000000000000000000000001#32 = .error .illegalCommandWord := by
  decide

/-- No two rows of the table match one word: their masks are full and their patterns differ. -/
theorem test_rows_do_not_overlap :
    opcodeTable.Pairwise fun a b => a.mask &&& b.mask &&& (a.pattern ^^^ b.pattern) ≠ 0 := by decide

theorem test_first_step_after_reset_encode :
    (after (step (State.reset.withFetchWord 32 1))).map (·.status.ecode) = some .invalidLength := by decide +kernel
theorem test_first_step_after_reset_decode :
    (after (step (State.reset.withFetchWord 32 2))).map (·.status.ecode) = some .invalidLength := by decide +kernel
theorem test_first_step_after_reset_encipher :
    (after (step (State.reset.withFetchWord 32 3))).map (·.status.done) = some true := by decide +kernel
theorem test_first_step_after_reset_decipher :
    (after (step (State.reset.withFetchWord 32 4))).map (·.status.done) = some true := by decide +kernel
theorem test_first_step_after_reset_illegal :
    (after (step (State.reset.withFetchWord 32 5))).map (·.status.toWord) = some 0x34 := by decide +kernel

/-! ### Ill-formed actions (R51); a command has no operand, so there is no ill-formed command (R83) -/

theorem test_wf_refuses_misaligned_read : (HostAction.read 0x002 4 (.var 0)).wf = false := by decide
theorem test_wf_refuses_byte_write : (HostAction.write 0x100 1 0).wf = false := by decide
theorem test_wf_refuses_outside_window : (HostAction.write 0x1000 4 0).wf = false := by decide
theorem test_wf_refuses_misaligned_poll : (HostAction.poll 0x005 1 0).wf = false := by decide
theorem test_wf_last_offset : (HostAction.read 0xFFC 4 (.var 0)).wf = true := by decide
/-- V10, last row. -/
theorem test_misaligned_read_is_refused :
    refusal (step { base with program := [.read 0x002 4 (.var 0)] }) = some .accessMisaligned := by decide

/-! ### The cipher core (V1, V3, V4, V6, V8) -/

theorem test_mix_last_row : mix 0x716F7274 0x9E3779B9 0x6D64636B = 0x8D701263 := by decide
/-- V8: an arithmetic shift gives 0x7C000000. -/
theorem test_mix_logical_shift : mix 0x80000000 0 0 = 0x84000000 := by decide
theorem test_shiftMix_all_ones : shiftMix 0xFFFFFFFF = 0xF800000F := by decide
/-- V6, rows 0 and 31. -/
theorem test_encRounds_row_0 :
    encRounds keyWords 1 ⟨0x31323334, 0x35363738, 0⟩ = ⟨0x2AA1BE39, 0x13A1A8F6, 0x9E3779B9⟩ := by decide +kernel
theorem test_encRounds_row_31 :
    encRounds keyWords 32 ⟨0x31323334, 0x35363738, 0⟩ = ⟨0xC3667DDF, 0x980194E4, 0xC6EF3720⟩ := by decide +kernel
/-- V6: after decipher round 0 the state is row 30, with s = s_end of row 30. -/
theorem test_decRound_reaches_row_30 :
    decRound keyWords ⟨0xC3667DDF, 0x980194E4, 0xC6EF3720⟩ = ⟨0xAAA75293, 0xCC43D27B, 0x28B7BD67⟩ := by decide +kernel
/-- V3, the published vector. -/
theorem test_encipher_published_vector :
    encipher 0x41424344 0x45464748 #v[0x00010203, 0x04050607, 0x08090A0B, 0x0C0D0E0F] = (0x497DF3D0, 0x72612CB5) := by
  decide +kernel
theorem test_exec_encipher :
    (after (exec .encipher { base with v0 := 0x80000000, v1 := 0x00000001 })).map
      (fun t => (t.v0, t.v1, t.status.toWord)) = some (0xA0306441, 0x28FD4A61, 0x00000002) := by decide +kernel
theorem test_exec_decipher :
    (after (exec .decipher { base with v0 := 0xFFFFFFFF, v1 := 0xFFFFFFFF })).map
      (fun t => (t.v0, t.v1, t.status.toWord)) = some (0xAE494D37, 0xDB2219D8, 0x00000002) := by decide +kernel

/-! ### The codec (V9) -/

theorem test_be32 : be32 #v[0xE8, 0xB1, 0x0C, 0x1F] = 0xE8B10C1F := by decide
theorem test_bytesBe : bytesBe 0xC3667DDF = #v[0xC3, 0x66, 0x7D, 0xDF] := by decide
theorem test_le32 : le32 #v[0x6B, 0x63, 0x64, 0x6D] = 0x6D64636B := by decide
theorem test_block : block #v[0x75, 0x75, 0x35, 0x21, 0x5E, 0x25, 0x6A, 0x67] = (0x75753521, 0x5E256A67) := by decide

/-! ### The framed commands (V5, V7) -/

theorem test_exec_encode :
    (after (exec .encode (presenting plain 8))).map (fun t => (t.outBuf, t.outLen, t.v0, t.v1)) =
      some (encoded, 24, 0xC3667DDF, 0x980194E4) := by decide +kernel
theorem test_exec_encode_length_9 :
    (after (exec .encode (presenting plain 9))).map (fun t => (t.status.toWord, t.outLen, t.outBuf)) =
      some (0x00000014, 0, base.outBuf) := by decide +kernel
theorem test_exec_decode :
    (after (exec .decode (presenting encoded 24))).map (fun t => (slice t.outBuf 0 8, t.outLen, t.v0, t.v1)) =
      some (slice plain 0 8, 8, 0x31323334, 0x35363738) := by decide +kernel
/-- V7: IN[23] = 0x5A. -/
theorem test_exec_decode_bad_suffix :
    (after (exec .decode (presenting (encoded.set 23 0x5A) 24))).map (fun t => (t.status.toWord, t.outLen)) =
      some (0x00000024, 0) := by decide +kernel
/-- E2: the derived encoding of `uu5!^%jg`. -/
theorem test_encodeBytes :
    encodeBytes keyWords suffix [0x75, 0x75, 0x35, 0x21, 0x5E, 0x25, 0x6A, 0x67] =
      .ok ([0x20, 0xE3, 0x55, 0x01, 0xE5, 0x6F, 0xCE, 0xDB] ++ suffix.toList) := by decide +kernel
/-- V7: the length is checked first. -/
theorem test_decodeBytes_length_first :
    decodeBytes keyWords suffix [0, 0, 0, 0, 0, 0, 0, 0, 0, 0] = .error .invalidLength := by decide +kernel

/-! ### The register interface (V10) -/

theorem test_status_after_reset : (memRead 0x004 State.reset).1 = 0 := by decide
theorem test_in_byte_takes_low_bits : (memRead 0x10C (memWrite 0x10C 0xABCDEF12 base)).1 = 0x00000012 := by decide
theorem test_out_len_ignores_writes : memWrite 0x00C 5 base = base := by decide
theorem test_busy_write_is_dropped :
    memWrite 0x010 1 (inFlight .encipher 1 []) =
      { inFlight .encipher 1 [] with status := { (inFlight .encipher 1 []).status with wbusy := true } } := by decide
theorem test_wbusy_write_without_bit_8 :
    (memWrite 0x004 0xFFFFFEFF { base with status := base.status.writeDropped }).status.wbusy = true := by decide
theorem test_accepted_word_clears_error :
    (memWrite 0x000 3 { base with status := base.status.failed .invalidLength }).status.toWord = 0x00000001 := by decide
theorem test_illegal_word_clears_done :
    (memWrite 0x000 7 { base with status := base.status.succeeded }).status.toWord = 0x00000034 := by decide
/-- R53: a result register read while BUSY is the free value, not the register. -/
theorem test_busy_read_takes_a_draw :
    (memRead 0x010 (inFlight .encipher 1 [])).2.draws = 1 := by decide
/-- P1, line 1, and P4, line 12: R89's encoding. -/
theorem test_transaction_text :
    (Transaction.write 0x10C 0x00000034).text =
      ['W', ' ', '1', '0', 'C', ' ', '0', '0', '0', '0', '0', '0', '3', '4'] := by decide
theorem test_run_expands : runCommand .decode = [.write 0x000 4 2, .poll 0x004 1 0] := by decide

/-! ### Witnesses: every statement's hypotheses are met, clause by clause -/

theorem witness_StepRunsDecodedCommand_issue :
    decode 4 = .ok .decipher ∧ base.phase = .idle ∧
      ({ base with program := [lineWr offCmd 4] } : State).program = lineWr offCmd 4 :: [] := by decide
theorem witness_StepRunsDecodedCommand_engine :
    (inFlight .encode 0 [.reset]).phase = .busy .encode ∧ engineMoves (inFlight .encode 0 [.reset]) = true := by decide
theorem witness_TransactionTextReadsBack : (Transaction.write 0xFFC 0xFFFFFFFF).wf = true ∧
    (Transaction.read 0).wf = true := by decide
theorem witness_TransactionTextReadsBack_same_text :
    (Transaction.read 0xFFC).wf = true ∧ (Transaction.read 0xFFC).text = (Transaction.read 0xFFC).text := by decide
theorem witness_LengthContracts :
    (List.replicate 8 (0 : Byte)).length = 8 ∧ (List.replicate 9 (0 : Byte)).length ≠ 8 ∧
    encoded.toList.length = 24 ∧ encoded.toList.drop 8 = suffix.toList ∧
    plain.toList.length = 24 ∧ plain.toList.drop 8 ≠ suffix.toList ∧ (encoded.toList.take 23).length ≠ 24 := by decide
theorem witness_CredentialRoundTrip : (List.replicate 8 (0xFF : Byte)).length = 8 ∧ (presenting plain 8).inLen = 8 := by
  decide
theorem witness_EncodedEndsWithSuffix :
    ∃ c, encodeBytes keyWords suffix (plain.toList.take 8) = .ok c := ⟨encoded.toList, by decide +kernel⟩
theorem witness_EncodedEndsWithSuffix_registers :
    ∃ t, exec .encode (presenting plain 8) = .next t ∧ t.status.done = true := ⟨_, rfl, rfl⟩
theorem witness_EncodeCommand : (presenting plain 8).inLen = 8 ∧ (presenting plain 0).inLen ≠ 8 ∧
    (presenting plain 0xFFFFFFFF).inLen ≠ 8 := by decide
theorem witness_DecodeCommand_success :
    (presenting encoded 24).inLen = 24 ∧ (presenting encoded 24).inBuf.toList.drop 8 = suffix.toList := by decide
theorem witness_DecodeCommand_format :
    (presenting (encoded.set 23 0x5A) 24).inLen = 24 ∧
      (presenting (encoded.set 23 0x5A) 24).inBuf.toList.drop 8 ≠ suffix.toList := by decide
theorem witness_DecodeCommand_length : (presenting encoded 23).inLen ≠ 24 ∧ (presenting encoded 25).inLen ≠ 24 := by
  decide
theorem witness_ErrorCompletion :
    base.phase = .idle ∧ base.status.busy = false ∧ decode 0 = .error .illegalCommandWord := by decide
theorem witness_ErrorsWriteNoResult : ∃ t, exec .encode base = .next t ∧ t.status.err = true := ⟨_, rfl, rfl⟩
theorem witness_ErrorsWriteNoResult_word : decode 0xFFFFFFFF = .error .illegalCommandWord := by decide
theorem witness_RawCommandFrame : (∃ t, exec .encipher base = .next t) ∧ ∃ t, exec .decipher base = .next t :=
  ⟨⟨_, rfl⟩, ⟨_, rfl⟩⟩
theorem witness_FramedCommandFrame :
    (∃ t, exec .encode (presenting plain 8) = .next t ∧ t.status.done = true) ∧
      ∃ t, exec .decode (presenting encoded 24) = .next t := ⟨⟨_, rfl, rfl⟩, exec_next _ _⟩
theorem witness_FramedCommandFrame_offsets :
    (0x260 ≠ 0x004 ∧ 0x260 ≠ 0x00C ∧ 0x260 ≠ 0x010 ∧ 0x260 ≠ 0x014 ∧ ¬ (0x200 ≤ 0x260 ∧ 0x260 < 0x260)) ∧
    (0x220 ≠ 0x004 ∧ 0x220 ≠ 0x00C ∧ 0x220 ≠ 0x010 ∧ 0x220 ≠ 0x014 ∧ ¬ (0x200 ≤ 0x220 ∧ 0x220 < 0x220)) := by decide
/-- Two states that agree on the inputs of ENCODE and differ elsewhere. -/
theorem witness_ResultsDependOnNamedInputs_encode :
    (presenting plain 8).inLen = (presenting (plain.set 23 1) 8).inLen ∧
    (∀ i : Fin 8, (presenting plain 8).inBuf[i.val] = (presenting (plain.set 23 1) 8).inBuf[i.val]) ∧
    presenting plain 8 ≠ presenting (plain.set 23 1) 8 ∧
    (∃ t, exec .encode (presenting plain 8) = .next t ∧ t.status.done = true) ∧
    ∃ v, exec .encode (presenting (plain.set 23 1) 8) = .next v :=
  ⟨by decide, by decide, by decide, ⟨_, rfl, rfl⟩, exec_next _ _⟩
theorem witness_ResultsDependOnNamedInputs_decode :
    (presenting encoded 24).inLen = { presenting encoded 24 with v0 := 1 }.inLen ∧
    (presenting encoded 24).inBuf = { presenting encoded 24 with v0 := 1 }.inBuf ∧
    (∃ t, exec .decode (presenting encoded 24) = .next t) ∧
    ∃ v, exec .decode { presenting encoded 24 with v0 := 1 } = .next v :=
  ⟨rfl, rfl, exec_next _ _, exec_next _ _⟩
theorem witness_ResultsDependOnNamedInputs_raw :
    base.v0 = { base with inLen := 1 }.v0 ∧ base.v1 = { base with inLen := 1 }.v1 ∧
    (∃ t, exec .decipher base = .next t) ∧ ∃ v, exec .decipher { base with inLen := 1 } = .next v :=
  ⟨rfl, rfl, exec_next _ _, exec_next _ _⟩
theorem witness_BusReadTable :
    base.phase = .idle ∧ (inFlight .decode 1 []).phase ≠ .idle ∧
    ((0x018 ≤ 0x018 ∧ 0x018 < 0x100) ∨ (0x160 ≤ 0x018 ∧ 0x018 < 0x200) ∨ 0x260 ≤ 0x018) ∧
    (∃ i : Fin 24, 0x25C = 0x200 + 4 * i.val) := ⟨rfl, by decide, by decide, ⟨23, rfl⟩⟩
theorem witness_BusWriteTable :
    base.phase = .idle ∧ (inFlight .decode 1 []).phase ≠ .idle ∧
    (∃ i : Fin 24, 0x15C = 0x100 + 4 * i.val) ∧
    ((0x018 ≤ 0xFFC ∧ 0xFFC < 0x100) ∨ (0x160 ≤ 0xFFC ∧ 0xFFC < 0x200) ∨ 0x260 ≤ 0xFFC) :=
  ⟨rfl, by decide, ⟨23, rfl⟩, by decide⟩
theorem witness_InputByteReadsBack : base.phase = .idle ∧ (1 : Fin 24) ≠ 0 ∧ 0x104 ≠ 0x100 + 4 * (0 : Fin 24).val := by
  decide
theorem witness_OnlyAlignedWordAccesses :
    (4 = 4 ∧ 0xFFC % 4 = 0 ∧ 0xFFC ≤ 0xFFC) ∧ ¬ (4 = 4 ∧ 0x1000 % 4 = 0 ∧ 0x1000 ≤ 0xFFC) ∧
    ¬ (2 = 4 ∧ 0x100 % 4 = 0 ∧ 0x100 ≤ 0xFFC) ∧ ¬ (4 = 4 ∧ 0x002 % 4 = 0 ∧ 0x002 ≤ 0xFFC) := by decide
theorem witness_OnlyAlignedWordAccesses_poll :
    (0xFFC % 4 = 0 ∧ 0xFFC ≤ 0xFFC) ∧ (memRead 0xFFC base).1 &&& 1 = 0 ∧ (memRead 0xFFC base).1 &&& 1 ≠ 1 ∧
    ¬ (0x1000 % 4 = 0 ∧ 0x1000 ≤ 0xFFC) ∧ ¬ (0xFFD % 4 = 0 ∧ 0xFFD ≤ 0xFFC) := by decide
theorem witness_IssueAcceptsOrRaises : (5 : Word) ≠ 1 ∧ (5 : Word) ≠ 2 ∧ (5 : Word) ≠ 3 ∧ (5 : Word) ≠ 4 := by decide
theorem witness_IllegalWordSeenAtOnce :
    base.phase = .idle ∧ ({ base with program := [lineWr offCmd 0] } : State).program = lineWr offCmd 0 :: [] ∧
    (0 : Word) ≠ 1 ∧ (0 : Word) ≠ 2 ∧ (0 : Word) ≠ 3 ∧ (0 : Word) ≠ 4 := by decide
theorem witness_BusyWriteIsDropped :
    (inFlight .encipher 1 []).phase = .busy .encipher ∧ (∃ i : Fin 24, 0x15C = 0x100 + 4 * i.val) ∧
    ∃ t, exec .encipher (inFlight .encipher 1 []) = .next t := ⟨rfl, ⟨23, rfl⟩, ⟨_, rfl⟩⟩
theorem witness_WbusyIsSticky :
    (0x100 : Word).getLsbD 8 = true ∧ (0xFFFFFEFF : Word).getLsbD 8 = false ∧
    ∃ t, exec .decode base = .next t := ⟨by decide, by decide, exec_next _ _⟩
theorem witness_ResetAbandonsAndClears :
    (inFlight .encode 1 [.reset]).program = .reset :: [] ∧
    ((inFlight .encode 1 [.reset]).phase = .idle ∨ 0 < (inFlight .encode 1 [.reset]).delay) := by decide
/-- While a command is in flight, with a HOST step before its completion. -/
theorem witness_StepKeepsStatusAndPhaseConsistent :
    (inFlight .encode 1 [lineWait]).ControlOk ∧ ∃ t, step (inFlight .encode 1 [lineWait]) = .next t :=
  ⟨by constructor <;> decide, _, rfl⟩
theorem witness_StepKeepsOutputFramed :
    ({ inFlight .decode 0 [] with outBuf := encoded, outLen := 24 } : State).OutputOk ∧
    ∃ t, step { inFlight .decode 0 [] with outBuf := encoded, outLen := 24 } = .next t :=
  ⟨by constructor <;> decide, _, rfl⟩
theorem witness_OnlyBadAccessesStopTheMachine :
    (inFlight .decode 2 [lineWait, .reset]).ProgramOk ∧
    step { base with program := [.write 0x100 1 0] } = .refused .accessWidth :=
  ⟨by unfold State.ProgramOk; decide, rfl⟩
theorem witness_CompletionIsCertain :
    (inFlight .decode 2 [lineWait, .reset]).phase = .busy .decode ∧ (inFlight .decode 2 [lineWait, .reset]).ProgramOk :=
  ⟨rfl, by unfold State.ProgramOk; decide⟩
theorem witness_HostCannotDisturbCommandInFlight :
    (inFlight .encipher 2 [lineWr offV0 1, lineWait]).phase = .busy .encipher ∧
    (inFlight .encipher 2 [lineWr offV0 1, lineWait]).ProgramOk ∧
    (inFlight .encipher 2 [lineWr offV0 1, lineWait]).NoReset :=
  ⟨rfl, by unfold State.ProgramOk; decide, by unfold State.NoReset; decide⟩
theorem witness_WriteRaceHasBothOutcomes : base.phase = .idle := rfl
theorem witness_WaitEndsWhenCommandCompletes :
    (inFlight .encode 3 [lineWait]).ControlOk ∧ (inFlight .encode 3 [lineWait]).phase = .busy .encode ∧
    (inFlight .encode 3 [lineWait]).program = lineWait :: [] := ⟨by constructor <;> decide, rfl, rfl⟩
theorem witness_OnlyHostChangesInputs :
    ∃ t, step { base with program := [lineWr 0x100 7] } = .next t ∧
      (t.inBuf ≠ base.inBuf ∨ t.inLen ≠ base.inLen) := ⟨_, rfl, by decide⟩
theorem witness_OnlyFramedSuccessChangesOutputs :
    ∃ t, step { presenting plain 8 with phase := .busy .encode } = .next t ∧
      (t.outBuf ≠ (presenting plain 8).outBuf ∨ t.outLen ≠ (presenting plain 8).outLen) :=
  ⟨_, rfl, .inr (by decide)⟩
theorem witness_DoneAndErrRiseOnlyAtCompletions_done :
    ∃ t, step (inFlight .encipher 0 []) = .next t ∧ (inFlight .encipher 0 []).status.done = false ∧
      t.status.done = true := ⟨_, rfl, rfl, rfl⟩
theorem witness_DoneAndErrRiseOnlyAtCompletions_err :
    ∃ t, step { base with program := [lineWr offCmd 9] } = .next t ∧ base.status.err = false ∧
      t.status.err = true := ⟨_, rfl, rfl, rfl⟩
theorem witness_LoadInFillsTheInputBuffer :
    base.phase = .idle ∧ ({ base with program := loadIn encoded.toList ++ [lineWait] } : State).program =
      loadIn encoded.toList ++ [lineWait] ∧ encoded.toList.length < 2 ^ 32 := ⟨rfl, rfl, by decide⟩
theorem witness_LoadInFillsTheInputBuffer_too_long :
    (List.replicate 25 (0 : Byte)).length < 2 ^ 32 ∧ (loadIn (List.replicate 25 0)).length = 25 := by decide
theorem witness_ReadOutReadsTheOutputBuffer :
    base.phase = .idle ∧ 24 ≤ 24 ∧
    ({ base with program := readOut 24 0 ++ [] } : State).program = readOut 24 0 ++ [] := ⟨rfl, by decide, rfl⟩
theorem witness_WindowIsBaseAndOffset : 0xFFF ≤ 0xFFF ∧ ∃ addr off, offsetOfBus addr = some off :=
  ⟨by decide, busAddress 0, 0, by simp [offsetOfBus, busAddress, windowBytes]⟩

end Sys2Proof.Tests
end

section
/-! PROOFS. The Word operators as numbers, the key Word a round selects, and both rounds as updates by MIX
(R6, R100, R101, R107). -/

namespace Sys2Proof.Machine

/-- R6: a left shift by 4 multiplies by 16 modulo 2^32. -/
theorem word_shiftLeft_four_toNat (x : Word) : (x <<< 4).toNat = x.toNat * 16 % 2 ^ 32 := by
  rw [BitVec.toNat_shiftLeft, Nat.shiftLeft_eq]

/-- R6: a logical right shift by `n` divides by 2^n. -/
theorem word_ushiftRight_toNat (x : Word) (n : Nat) : (x >>> n).toNat = x.toNat / 2 ^ n := by
  rw [BitVec.toNat_ushiftRight, Nat.shiftRight_eq_div_pow]

/-- R6: a difference is the difference modulo 2^32, taken non-negative. -/
theorem word_sub_toNat (x y : Word) : (x - y).toNat = (x.toNat + 2 ^ 32 - y.toNat) % 2 ^ 32 := by
  have hy : y.toNat < 2 ^ 32 := y.isLt
  rw [BitVec.toNat_sub, ← Nat.sub_add_comm hy.le, Nat.add_comm]

/-- R101: the key index is the Word modulo 4. -/
theorem keyIndex_val (x : Word) : (keyIndex x).val = x.toNat % 4 := by
  have low_two_bits : (x &&& 3#32).toNat = x.toNat % 4 := Nat.and_two_pow_sub_one_eq_mod x.toNat 2
  rw [keyIndex, Fin.val_ofNat, low_two_bits, Nat.mod_mod]

/-- R101, R107: the index of the sum shifted right by 11. -/
theorem keyIndex_ushiftRight_val (x : Word) : (keyIndex (x >>> 11)).val = x.toNat / 2048 % 4 := by
  simp only [keyIndex_val, word_ushiftRight_toNat, Nat.reducePow]

/-- Settles O5: the operators of R6 by the lemmas above; MIX and the selected key Word are their definitions, and each
round is its form in terms of MIX, read field by field. -/
theorem roundsAreMixUpdates : Obligations.RoundsAreMixUpdates := by
  refine ⟨?mix, ?operators, ?indices, ?selected, ?encipher, ?decipher⟩
  case mix => exact fun _ _ _ => rfl
  case operators =>
    exact fun x y => ⟨BitVec.toNat_add x y, word_shiftLeft_four_toNat x, word_ushiftRight_toNat x 5,
      word_sub_toNat x y⟩
  case indices => exact fun x => ⟨keyIndex_val x, keyIndex_ushiftRight_val x⟩
  case selected => exact fun _ _ => rfl
  case encipher =>
    intro k r
    rw [encRound_eq_mix]
    exact ⟨rfl, rfl, rfl⟩
  case decipher =>
    intro k r
    rw [decRound_eq_mix]
    exact ⟨rfl, rfl, rfl⟩

end Sys2Proof.Machine
end

section
/-! PROOFS. What a step can do to the block, said once: ENGINE's completion, HOST waiting, or one of six effects of a
HOST action (R20, R53, R54, R84, R85, R230). -/

namespace Sys2Proof.Machine

/-- What the HOST action `a`, taken in the state `s`, can do to the block. -/
inductive HostEffect (a : HostAction) (s : State) : State → Prop
  /-- Of the block's registers V0, V1 and WBUSY at most change: reads, polls, writes to STATUS, V0, V1 and to offsets
  that ignore them, and writes dropped while BUSY. -/
  | other (v0 v1 : Word) (wbusy : Bool) (program : List HostAction) (reads : List (HostName × Word)) (draws : Nat) :
      HostEffect a s { s with
        v0 := v0
        v1 := v1
        status := { s.status with wbusy := wbusy }
        program := program
        reads := reads
        draws := draws }
  /-- R84: a command word is written to CMD. -/
  | accepted (w : Word) (op : Instr) (line : a = lineWr offCmd w) (idle : s.phase = .idle) (word : decode w = .ok op) :
      HostEffect a s (accept op s)
  /-- R203: a word that is no command's is written to CMD. -/
  | illegal (w : Word) (line : a = lineWr offCmd w) (idle : s.phase = .idle)
      (word : decode w = .error .illegalCommandWord) : HostEffect a s (raiseError .illegalCommand s)
  /-- R26. -/
  | inLen (v : Word) (line : a = lineWr offInLen v) (idle : s.phase = .idle) : HostEffect a s { s with inLen := v }
  /-- R25, R55. -/
  | inByte (i : Fin 24) (v : Word) (line : a = lineWr (inOffset i.val) v) (idle : s.phase = .idle) :
      HostEffect a s { s with inBuf := s.inBuf.set i.val (v.setWidth 8) }
  /-- R230. -/
  | reset (line : a = .reset) : HostEffect a s (takeReset s)

/-- A bus read changes no register of the block. -/
theorem memRead_effect (a : HostAction) (off : Nat) (s : State) (program : List HostAction)
    (reads : List (HostName × Word)) :
    HostEffect a s { (memRead off s).2 with program := program, reads := reads } := by
  obtain ⟨draws, hread, -⟩ := memRead_state off s
  rw [hread]
  exact .other s.v0 s.v1 s.status.wbusy program reads draws

theorem hostRead_effect (a : HostAction) (off : Nat) (name : HostName) (s : State) :
    HostEffect a s (hostRead off name s) := by
  rw [hostRead_eq]
  exact memRead_effect a off s _ _

theorem hostPoll_effect (a : HostAction) (off : Nat) (mask val : Word) (s : State) :
    HostEffect a s (hostPoll off mask val s) := by
  by_cases hval : (memRead off s).1 &&& mask = val
  · rw [hostPoll_done hval]
    exact memRead_effect a off s _ _
  · rw [hostPoll_again hval]
    exact memRead_effect a off s _ _

/-- R84: a write to CMD while IDLE is an acceptance or IllegalCommand. -/
theorem issue_effect {w : Word} {s : State} (idle : s.phase = .idle) :
    HostEffect (lineWr offCmd w) s (issue w s) := by
  obtain ⟨op, hword, hissue⟩ | ⟨hword, hissue⟩ := issue_cases w s
  · rw [hissue]; exact .accepted w op rfl idle hword
  · rw [hissue]; exact .illegal w rfl idle hword

/-- R36: a write to STATUS changes WBUSY at most. -/
theorem Status.writeOneToClear_eq (v : Word) (st : Status) :
    ∃ wbusy, st.writeOneToClear v = { st with wbusy := wbusy } := by
  unfold Status.writeOneToClear
  split
  · exact ⟨false, rfl⟩
  · exact ⟨st.wbusy, rfl⟩

/-- R54, while IDLE: the effect of a bus write is that of the register at its offset. -/
theorem memWrite_effect_idle {s : State} (idle : s.phase = .idle) (off : Nat) (v : Word) :
    HostEffect (lineWr off v) s (memWrite off v s) := by
  have stands := regAt_standsAt off
  simp only [memWrite, whenIdle_idle idle]
  cases hreg : regAt off <;> rw [hreg] at stands
  case cmd => obtain rfl : off = offCmd := stands; exact issue_effect idle
  case inLen => obtain rfl : off = offInLen := stands; exact .inLen v rfl idle
  case inByte i => obtain rfl : off = inOffset i.val := stands; exact .inByte i v rfl idle
  case v0 => exact .other v s.v1 s.status.wbusy _ _ _
  case v1 => exact .other s.v0 v s.status.wbusy _ _ _
  case status =>
    obtain ⟨wbusy, hclear⟩ := s.status.writeOneToClear_eq v
    simp only [hclear]
    exact .other s.v0 s.v1 wbusy _ _ _
  case outLen | outByte | reserved => exact .other s.v0 s.v1 s.status.wbusy _ _ _

/-- R54: the effect of a bus write. -/
theorem memWrite_effect (off : Nat) (v : Word) (s : State) : HostEffect (lineWr off v) s (memWrite off v s) := by
  cases hphase : s.phase with
  | idle => exact memWrite_effect_idle hphase off v
  | busy op =>
    obtain ⟨wbusy, hwrite⟩ := memWrite_busy hphase off v
    rw [hwrite]
    exact .other s.v0 s.v1 wbusy _ _ _

theorem hostAct_effect {a : HostAction} {s t : State} (h : hostAct a s = .next t) : HostEffect a s t := by
  obtain ⟨hwf, ht⟩ := hostAct_next h
  cases a with
  | read off width name => rw [ht]; exact hostRead_effect _ off name s
  | poll off mask val => rw [ht]; exact hostPoll_effect _ off mask val s
  | reset => rw [ht]; exact .reset rfl
  | write off width v =>
    obtain ⟨rfl, -, -⟩ := (legalAccess_iff off width).1 hwf
    rw [ht]
    exact memWrite_effect off v s

/-- A step is ENGINE's completion, HOST waiting, or the effect of HOST's first action on the registers of `s`. -/
theorem step_effect {s t : State} (h : step s = .next t) :
    (∃ op, s.phase = .busy op ∧ exec op s = .next t) ∨ t = s ∨
      ∃ a rest delay, s.program = a :: rest ∧ HostEffect a { s with program := rest, delay := delay } t := by
  obtain hengine | ⟨-, -, hwait⟩ | ⟨a, rest, u, hprogram, hact, ⟨-, rfl⟩ | ⟨-, -, rfl⟩⟩ := step_cases h
  · exact .inl hengine
  · exact .inr (.inl hwait)
  · exact .inr (.inr ⟨a, rest, s.delay, hprogram, hostAct_effect hact⟩)
  · exact .inr (.inr ⟨a, rest, s.delay - 1, hprogram, hostAct_effect hact⟩)

/-- A predicate that looks at neither HOST's program nor the latency left is kept by every step if completions and the
effects of HOST's actions keep it. -/
theorem step_preserves {P : State → Prop}
    (frame : ∀ s program delay, P s → P { s with program := program, delay := delay })
    (engine : ∀ op s t, P s → exec op s = .next t → P t)
    (host : ∀ a s t, P s → HostEffect a s t → P t)
    {s t : State} (hs : P s) (h : step s = .next t) : P t := by
  obtain ⟨op, -, hexec⟩ | rfl | ⟨a, rest, delay, -, heffect⟩ := step_effect h
  · exact engine op s t hs hexec
  · exact hs
  · exact host a _ t (frame s rest delay hs) heffect

end Sys2Proof.Machine
end

section
/-! PROOFS. STATUS and PHASE stay consistent, and DONE and ERR rise only at completions and illegal words
(R31 to R34, R37, R203). -/

namespace Sys2Proof.Machine

/-- An error's code is never the code of no error. -/
theorem ErrorKind.code_ne_none (e : ErrorKind) : e.code ≠ .none := by
  cases e <;> exact ECode.noConfusion

theorem succeed_controlOk (s : State) : (succeed s).ControlOk := by
  constructor <;> simp

theorem raiseError_controlOk (e : ErrorKind) (s : State) : (raiseError e s).ControlOk := by
  constructor <;> simp [e.code_ne_none]

theorem accept_controlOk (op : Instr) (s : State) : (accept op s).ControlOk := by
  constructor <;> simp

theorem takeReset_controlOk (s : State) : (takeReset s).ControlOk := by
  constructor <;> simp [Status.zero]

/-- Every completion leaves STATUS and PHASE consistent, whatever they were. -/
theorem exec_controlOk {op : Instr} {s t : State} (h : exec op s = .next t) : t.ControlOk := by
  obtain ⟨_, _, _, _, -, rfl⟩ | ⟨e, -, -, rfl⟩ := exec_cases h
  · exact succeed_controlOk _
  · exact raiseError_controlOk e s

theorem HostEffect.controlOk {a : HostAction} {s t : State} (h : HostEffect a s t) (hs : s.ControlOk) :
    t.ControlOk := by
  cases h with
  | accepted => exact accept_controlOk _ s
  | illegal => exact raiseError_controlOk _ s
  | reset => exact takeReset_controlOk s
  | other | inLen | inByte => exact ⟨hs.busy_iff, hs.in_flight, hs.not_both, hs.ecode_iff⟩

/-- Settles O36: completions, acceptance, IllegalCommand and reset make STATUS and PHASE consistent; the other effects
of HOST's actions leave both but for WBUSY. -/
theorem stepKeepsStatusAndPhaseConsistent : Obligations.StepKeepsStatusAndPhaseConsistent := fun _ _ =>
  step_preserves
    (frame := fun _ _ _ hs => ⟨hs.busy_iff, hs.in_flight, hs.not_both, hs.ecode_iff⟩)
    (engine := fun _ _ _ _ hexec => exec_controlOk hexec)
    (host := fun _ _ _ hs heffect => heffect.controlOk hs)

/-- No action of HOST raises DONE. -/
theorem HostEffect.done_imp {a : HostAction} {s t : State} (h : HostEffect a s t) (done : t.status.done = true) :
    s.status.done = true := by
  cases h with
  | accepted | illegal | reset => cases done
  | other | inLen | inByte => exact done

/-- An action of HOST that raises ERR issues an illegal word while IDLE. -/
theorem HostEffect.err_rises {a : HostAction} {s t : State} (h : HostEffect a s t) (before : s.status.err = false)
    (after : t.status.err = true) :
    ∃ w, a = lineWr offCmd w ∧ s.phase = .idle ∧ decode w = .error .illegalCommandWord ∧
      t.status.ecode = .illegalCommand := by
  cases h with
  | illegal w line idle word => exact ⟨w, line, idle, word, rfl⟩
  | accepted | reset => cases after
  | other | inLen | inByte => exact absurd after (Bool.eq_false_iff.1 before)

/-- Settles O46, by the effects of HOST's actions on DONE and ERR. -/
theorem doneAndErrRiseOnlyAtCompletions : Obligations.DoneAndErrRiseOnlyAtCompletions := by
  intro s t h
  obtain hengine | rfl | ⟨a, rest, delay, hprogram, heffect⟩ := step_effect h
  · exact ⟨fun _ _ => hengine, fun _ _ => .inl hengine⟩
  · exact ⟨fun before after => absurd after (Bool.eq_false_iff.1 before),
      fun before after => absurd after (Bool.eq_false_iff.1 before)⟩
  · refine ⟨fun before after => absurd (heffect.done_imp after) (Bool.eq_false_iff.1 before), fun before after => ?_⟩
    obtain ⟨w, rfl, idle, word, code⟩ := heffect.err_rises before after
    exact .inr ⟨w, rest, idle, hprogram, word, code⟩

end Sys2Proof.Machine
end

section
/-! PROOFS. Who changes OUT and OUT_LEN, and who changes IN and IN_LEN (R25 to R28, R150, R230). -/

namespace Sys2Proof.Machine

/-- Reset is the one action of HOST that changes OUT or OUT_LEN. -/
theorem HostEffect.out_eq {a : HostAction} {s t : State} (h : HostEffect a s t) :
    (a = .reset ∧ t = takeReset s) ∨ (t.outBuf = s.outBuf ∧ t.outLen = s.outLen) := by
  cases h with
  | reset line => exact .inl ⟨line, rfl⟩
  | other | accepted | illegal | inLen | inByte => exact .inr ⟨rfl, rfl⟩

/-- A completion leaves OUT and OUT_LEN, or is a framed success. -/
theorem exec_out {op : Instr} {s t : State} (h : exec op s = .next t) :
    (t.outBuf = s.outBuf ∧ t.outLen = s.outLen) ∨
      (op = .encode ∧ t.status.done = true ∧ t.outLen = 24 ∧ slice t.outBuf 8 16 = suffix) ∨
      (op = .decode ∧ t.status.done = true ∧ t.outLen = 8) := by
  obtain ⟨v0, v1, out, len, ⟨hlen, hout⟩ | ⟨hop, hlen, htail⟩ | ⟨hop, hlen⟩, rfl⟩ | ⟨e, -, -, rfl⟩ := exec_cases h
  · exact .inl ⟨hout, hlen⟩
  · exact .inr (.inl ⟨hop, rfl, hlen, htail⟩)
  · exact .inr (.inr ⟨hop, rfl, hlen⟩)
  · exact .inl ⟨rfl, rfl⟩

/-- The framing of OUT looks at OUT and OUT_LEN alone. -/
theorem State.OutputOk.congr {s t : State} (hs : s.OutputOk) (out : t.outBuf = s.outBuf ∧ t.outLen = s.outLen) :
    t.OutputOk := by
  obtain ⟨hout, hlen⟩ := out
  exact ⟨hlen ▸ hs.length, by rw [hout, hlen]; exact hs.framed⟩

theorem exec_outputOk {op : Instr} {s t : State} (hs : s.OutputOk) (h : exec op s = .next t) : t.OutputOk := by
  obtain same | ⟨-, -, hlen, htail⟩ | ⟨-, -, hlen⟩ := exec_out h
  · exact hs.congr same
  · exact ⟨.inr (.inl hlen), fun _ => htail⟩
  · exact ⟨.inr (.inr hlen), fun h24 => absurd (hlen.symm.trans h24) (by decide)⟩

theorem HostEffect.outputOk {a : HostAction} {s t : State} (h : HostEffect a s t) (hs : s.OutputOk) :
    t.OutputOk := by
  obtain ⟨-, rfl⟩ | same := h.out_eq
  · exact ⟨.inl rfl, fun h24 => absurd ((takeReset_outLen s).symm.trans h24) (by decide)⟩
  · exact hs.congr same

/-- Settles O37: ENCODE writes SUFFIX with OUT_LEN 24, DECODE sets OUT_LEN 8, reset sets it 0, and nothing else
writes OUT or OUT_LEN. -/
theorem stepKeepsOutputFramed : Obligations.StepKeepsOutputFramed := fun _ _ =>
  step_preserves
    (frame := fun _ _ _ hs => hs.congr ⟨rfl, rfl⟩)
    (engine := fun _ _ _ hs hexec => exec_outputOk hs hexec)
    (host := fun _ _ _ hs heffect => heffect.outputOk hs)

/-- Settles O45, from what a completion and what an action of HOST can do to OUT and OUT_LEN. -/
theorem onlyFramedSuccessChangesOutputs : Obligations.OnlyFramedSuccessChangesOutputs := by
  intro s t h changed
  have changed : ¬ (t.outBuf = s.outBuf ∧ t.outLen = s.outLen) := not_and_or.2 changed
  obtain ⟨op, hphase, hexec⟩ | rfl | ⟨a, rest, delay, hprogram, heffect⟩ := step_effect h
  · obtain same | ⟨rfl, done, hlen, -⟩ | ⟨rfl, done, hlen⟩ := exec_out hexec
    · exact absurd same changed
    · exact .inl ⟨hphase, done, hlen⟩
    · exact .inr (.inl ⟨hphase, done, hlen⟩)
  · exact absurd ⟨rfl, rfl⟩ changed
  · obtain ⟨rfl, -⟩ | same := heffect.out_eq
    · exact .inr (.inr ⟨rest, hprogram⟩)
    · exact absurd same changed

/-- A completion changes neither IN nor IN_LEN. -/
theorem exec_in_eq {op : Instr} {s t : State} (h : exec op s = .next t) : t.inBuf = s.inBuf ∧ t.inLen = s.inLen := by
  obtain ⟨_, _, _, _, -, rfl⟩ | ⟨_, -, -, rfl⟩ := exec_cases h <;> exact ⟨rfl, rfl⟩

/-- Settles O44: of the effects of HOST's actions only reset and the IDLE writes to IN_LEN and IN[i] touch IN or
IN_LEN. -/
theorem onlyHostChangesInputs : Obligations.OnlyHostChangesInputs := by
  intro s t h changed
  have changed : ¬ (t.inBuf = s.inBuf ∧ t.inLen = s.inLen) := not_and_or.2 changed
  obtain ⟨op, -, hexec⟩ | rfl | ⟨a, rest, delay, hprogram, heffect⟩ := step_effect h
  · exact absurd (exec_in_eq hexec) changed
  · exact absurd ⟨rfl, rfl⟩ changed
  · refine ⟨a, rest, hprogram, ?_⟩
    cases heffect with
    | reset line => exact .inl line
    | inLen v line idle => exact .inr ⟨idle, _, v, line, .inl ⟨rfl, rfl, rfl⟩⟩
    | inByte i v line idle => exact .inr ⟨idle, _, v, line, .inr ⟨i, rfl, rfl, rfl⟩⟩
    | other | accepted | illegal => exact absurd ⟨rfl, rfl⟩ changed

end Sys2Proof.Machine
end

section
/-! PROOFS. The word of STATUS bit by bit, WBUSY, the constants and the reset values (R30, R34 to R36, R39, R40, R143,
R230). -/

namespace Sys2Proof.Machine

/-- A flag as a word is its bit 0 alone. -/
theorem flagBit_getLsbD (b : Bool) (i : Nat) : (flagBit b).getLsbD i = (decide (i = 0) && b) := by
  cases b <;> simp [flagBit]

/-- A flag shifted to bit `n` is that bit alone. -/
theorem flagBit_shiftLeft_getLsbD (b : Bool) {n : Nat} (hn : n < 32) (i : Nat) :
    (flagBit b <<< n).getLsbD i = (decide (i = n) && b) := by
  rw [BitVec.getLsbD_shiftLeft, flagBit_getLsbD]
  by_cases hi : i = n
  · simp [hi, hn]
  · simp [hi]
    omega

/-- R34: every code is below 4. -/
theorem ECode.bits_getLsbD_of_two_le (c : ECode) {i : Nat} (hi : 2 ≤ i) : c.bits.getLsbD i = false := by
  have below_four : c.bits.toNat < 2 ^ 2 := by cases c <;> decide
  rw [← BitVec.testBit_toNat]
  exact Nat.testBit_lt_two_pow (below_four.trans_le (Nat.pow_le_pow_right (by decide) hi))

/-- R30, R53: each bit of the word a read of STATUS returns. -/
theorem Status.toWord_getLsbD (st : Status) (i : Nat) :
    st.toWord.getLsbD i =
      (decide (i = 8) && st.wbusy || (decide (i < 32) && !decide (i < 4) && st.ecode.bits.getLsbD (i - 4)) ||
        decide (i = 2) && st.err || decide (i = 1) && st.done || decide (i = 0) && st.busy) := by
  simp only [Status.toWord, BitVec.getLsbD_or, BitVec.getLsbD_shiftLeft st.ecode.bits, flagBit_getLsbD,
    flagBit_shiftLeft_getLsbD _ (by decide : 8 < 32), flagBit_shiftLeft_getLsbD _ (by decide : 2 < 32),
    flagBit_shiftLeft_getLsbD _ (by decide : 1 < 32)]

/-- R34: ECODE is bits 6:4. -/
theorem Status.toWord_ecode (st : Status) : st.toWord.extractLsb' 4 3 = st.ecode.bits.setWidth 3 := by
  refine BitVec.eq_of_getLsbD_eq fun i hi => ?_
  rw [BitVec.getLsbD_extractLsb', Status.toWord_getLsbD, BitVec.getLsbD_setWidth]
  simp [hi, show 4 + i ≠ 8 by omega, show 4 + i ≠ 2 by omega, show 4 + i ≠ 1 by omega, show 4 + i < 32 by omega]

/-- R36: bits 31:9 of STATUS read 0. -/
theorem Status.toWord_reserved (st : Status) {i : Nat} (hi : 9 ≤ i) : st.toWord.getLsbD i = false := by
  rw [Status.toWord_getLsbD]
  simp [st.ecode.bits_getLsbD_of_two_le (show 2 ≤ i - 4 by omega), show i ≠ 8 by omega,
    show i ≠ 2 by omega, show i ≠ 1 by omega, show i ≠ 0 by omega]

theorem memWrite_status (v : Word) (s : State) :
    memWrite 0x004 v s = { s with status := s.status.writeOneToClear v } := rfl

/-- R36: a write to STATUS looks at bit 8 alone. -/
theorem Status.writeOneToClear_mask (v : Word) (st : Status) :
    st.writeOneToClear (v &&& 0x100#32) = st.writeOneToClear v := by
  have bit8 : (v &&& 0x100#32).getLsbD 8 = v.getLsbD 8 := by simp
  rw [Status.writeOneToClear, Status.writeOneToClear, bit8]

/-- Settles O29, from the bits of the STATUS word and the mask law of a STATUS write. -/
theorem statusWordLayout : Obligations.StatusWordLayout := by
  refine ⟨⟨rfl, rfl, rfl, rfl⟩, fun s v => ?_, fun st => ?_⟩
  · rw [memWrite_status, memWrite_status, Status.writeOneToClear_mask]
  · refine ⟨?busy, ?done, ?err, ?bit3, st.toWord_ecode, ?bit7, ?wbusy, fun _ => st.toWord_reserved⟩
    all_goals rw [Status.toWord_getLsbD]
    case bit7 => simp [- BitVec.getLsbD_eq_getElem, st.ecode.bits_getLsbD_of_two_le (i := 3)]
    case wbusy => simp [- BitVec.getLsbD_eq_getElem, st.ecode.bits_getLsbD_of_two_le (i := 4)]
    all_goals simp

/-- R35: no completion touches WBUSY. -/
theorem exec_wbusy {op : Instr} {s t : State} (h : exec op s = .next t) : t.status.wbusy = s.status.wbusy := by
  obtain ⟨_, _, _, _, -, rfl⟩ | ⟨_, -, -, rfl⟩ := exec_cases h <;> rfl

/-- Settles O33: bit 8 decides a STATUS write, and completions leave WBUSY by `exec_wbusy`. -/
theorem wbusyIsSticky : Obligations.WbusyIsSticky := by
  refine ⟨fun s v bit8 => ?_, fun s v bit8 => ?_, fun _ => ⟨rfl, rfl⟩, fun _ _ => rfl, fun _ _ _ => exec_wbusy⟩
  · rw [memWrite_status, Status.writeOneToClear, if_pos bit8]
  · rw [memWrite_status, Status.writeOneToClear, if_neg (Bool.eq_false_iff.1 bit8)]

/-- Settles O11: the constants' bytes, and the four le32 Words they give. -/
theorem keyExpansion : Obligations.KeyExpansion := by
  refine ⟨?bytes, ?chunks, ?words, ?suffix⟩
  case bytes => decide
  case chunks => rfl
  case words => decide
  case suffix => rfl

/-- Settles O35: the values stand in `State.reset`. -/
theorem resetState : Obligations.ResetState := ⟨rfl, rfl, rfl, rfl⟩

end Sys2Proof.Machine
end

section
/-! PROOFS. Bus reads and writes at every offset of the map (R52 to R56). -/

namespace Sys2Proof.Machine

/-- R53: a read of a register that holds no result, in every PHASE, by the register at the offset. -/
theorem memRead_of_regAt_plain {off : Nat} {r : Reg} (at_off : regAt off = r) (plain : r.holdsResult = false)
    (s : State) : memRead off s = (regValue r s, s) := by
  subst at_off
  exact memRead_plain plain s

/-- R53, while IDLE, by the register at the offset. -/
theorem memRead_of_regAt_idle {off : Nat} {r : Reg} (at_off : regAt off = r) {s : State} (idle : s.phase = .idle) :
    memRead off s = (regValue r s, s) := by
  subst at_off
  exact memRead_idle idle off

/-- R53, R236: a read of a result register while BUSY takes a draw. -/
theorem memRead_result_busy {off : Nat} {s : State} {op : Instr} (busy : s.phase = .busy op)
    (result : (regAt off).holdsResult = true) :
    memRead off s = (Config.unspecRead s.draws, { s with draws := s.draws + 1 }) := by
  simp [memRead, busy, result]

theorem Phase.exists_busy_of_ne_idle {p : Phase} (h : p ≠ .idle) : ∃ op, p = .busy op := by
  cases p with
  | idle => exact absurd rfl h
  | busy op => exact ⟨op, rfl⟩

/-- The offsets of V0, V1, OUT_LEN and OUT[i] are those of result registers. -/
theorem regAt_holdsResult {off : Nat}
    (h : off = offOutLen ∨ off = offV0 ∨ off = offV1 ∨ ∃ i : Fin 24, off = outOffset i.val) :
    (regAt off).holdsResult = true := by
  obtain rfl | rfl | rfl | ⟨i, rfl⟩ := h
  · rfl
  · rfl
  · rfl
  · rw [regAt_outOffset i.val i.isLt]
    rfl

/-- Settles O25: the register at each offset, then the read rule of registers that hold no result, of IDLE, and of
result registers while BUSY. -/
theorem busReadTable : Obligations.BusReadTable := by
  intro s
  refine ⟨?cmd, ?status, ?inLen, fun i => ?inByte, fun off reserved => ?reserved, fun idle => ?idle,
    fun notIdle off result => ?busy⟩
  case cmd => exact memRead_of_regAt_plain (r := .cmd) rfl rfl s
  case status => exact memRead_of_regAt_plain (r := .status) rfl rfl s
  case inLen => exact memRead_of_regAt_plain (r := .inLen) rfl rfl s
  case inByte => exact memRead_of_regAt_plain (regAt_inOffset i.val i.isLt) rfl s
  case reserved => exact memRead_of_regAt_plain (regAt_reserved off reserved) rfl s
  case idle =>
    exact ⟨memRead_of_regAt_idle (r := .outLen) rfl idle, memRead_of_regAt_idle (r := .v0) rfl idle,
      memRead_of_regAt_idle (r := .v1) rfl idle,
      fun i => memRead_of_regAt_idle (regAt_outOffset i.val i.isLt) idle⟩
  case busy =>
    obtain ⟨op, busy⟩ := Phase.exists_busy_of_ne_idle notIdle
    exact memRead_result_busy busy (regAt_holdsResult result)

/-- R54, R55: a write to IN[i]. -/
theorem memWrite_inOffset (i : Fin 24) (v : Word) (s : State) :
    memWrite (inOffset i.val) v s = whenIdle s { s with inBuf := s.inBuf.set i.val (v.setWidth 8) } := by
  rw [memWrite, regAt_inOffset i.val i.isLt]

/-- R55: while IDLE, IN[i] takes `v[7:0]`. -/
theorem memWrite_inOffset_idle {s : State} (idle : s.phase = .idle) (i : Fin 24) (v : Word) :
    memWrite (inOffset i.val) v s = { s with inBuf := s.inBuf.set i.val (v.setWidth 8) } := by
  rw [memWrite_inOffset, whenIdle_idle idle]

/-- R56: an OUT byte ignores writes. -/
theorem memWrite_outOffset (i : Fin 24) (v : Word) (s : State) : memWrite (outOffset i.val) v s = s := by
  rw [memWrite, regAt_outOffset i.val i.isLt]

/-- R56: a reserved offset ignores writes. -/
theorem memWrite_reserved {off : Nat} (h : (0x018 ≤ off ∧ off < 0x100) ∨ (0x160 ≤ off ∧ off < 0x200) ∨ 0x260 ≤ off)
    (v : Word) (s : State) : memWrite off v s = s := by
  rw [memWrite, regAt_reserved off h]

/-- R204: a write to CMD, IN_LEN, V0, V1 or IN[i] while BUSY is the busy-write event. -/
theorem memWrite_busyWrite {s : State} {op : Instr} (busy : s.phase = .busy op) {off : Nat}
    (h : off = offCmd ∨ off = offInLen ∨ off = offV0 ∨ off = offV1 ∨ ∃ i : Fin 24, off = inOffset i.val) (v : Word) :
    memWrite off v s = busyWrite s := by
  obtain rfl | rfl | rfl | rfl | ⟨i, rfl⟩ := h
  case inr.inr.inr.inr => rw [memWrite_inOffset, whenIdle_busy busy]
  all_goals exact whenIdle_busy busy _

/-- R36, R54: STATUS after a write is STATUS but for WBUSY, which bit 8 clears. -/
theorem Status.writeOneToClear_wbusy (v : Word) (st : Status) :
    st.writeOneToClear v = { st with wbusy := if v.getLsbD 8 then false else st.wbusy } := by
  unfold Status.writeOneToClear
  split <;> rfl

/-- Settles O26: one write rule per row of the table. -/
theorem busWriteTable : Obligations.BusWriteTable := by
  intro s v
  refine ⟨?status, fun idle => ?idle, fun notIdle off writable => ?busy, fun off ignored => ?ignored⟩
  case status => rw [memWrite_status, Status.writeOneToClear_wbusy]
  case idle =>
    refine ⟨whenIdle_idle idle _, whenIdle_idle idle _, whenIdle_idle idle _, whenIdle_idle idle _, fun i => ?_⟩
    rw [← BitVec.setWidth_eq_extractLsb' (by decide)]
    exact memWrite_inOffset_idle idle i v
  case busy =>
    obtain ⟨op, busy⟩ := Phase.exists_busy_of_ne_idle notIdle
    exact memWrite_busyWrite busy writable v
  case ignored =>
    obtain rfl | ⟨i, rfl⟩ | reserved := ignored
    · rfl
    · exact memWrite_outOffset i v s
    · exact memWrite_reserved reserved v s

/-- R52: IN[i] stands at no offset but its own. -/
theorem regAt_ne_inByte {off : Nat} {i : Fin 24} (h : off ≠ inOffset i.val) : regAt off ≠ .inByte i := by
  intro at_off
  have stands := regAt_standsAt off
  rw [at_off] at stands
  exact h stands

/-- A byte stored in IN[i] changes no other register of the window. -/
theorem regValue_set_inByte_ne {r : Reg} {i : Fin 24} (h : r ≠ .inByte i) (b : Byte) (s : State) :
    regValue r { s with inBuf := s.inBuf.set i.val b } = regValue r s := by
  cases r with
  | inByte j =>
    have distinct : i.val ≠ j.val := fun same => h (congrArg Reg.inByte (Fin.ext same.symm))
    exact congrArg (BitVec.setWidth 32) (Vector.getElem_set_ne i.isLt j.isLt distinct)
  | cmd | status | inLen | outLen | v0 | v1 | outByte _ | reserved => rfl

/-- A byte stored in IN[i] is read there, zero-extended. -/
theorem regValue_set_inByte_self (i : Fin 24) (b : Byte) (s : State) :
    regValue (.inByte i) { s with inBuf := s.inBuf.set i.val b } = b.setWidth 32 :=
  congrArg (BitVec.setWidth 32) (Vector.getElem_set_self i.isLt)

/-- Settles O27: the stored byte read back, and the registers at all other offsets, IN[j] among them, as they were. -/
theorem inputByteReadsBack : Obligations.InputByteReadsBack := by
  intro s v i idle
  have after_write := memWrite_inOffset_idle idle i v
  have others : ∀ off : Nat, off ≠ inOffset i.val →
      regValue (regAt off) (memWrite (inOffset i.val) v s) = regValue (regAt off) s := fun off h => by
    rw [after_write]
    exact regValue_set_inByte_ne (regAt_ne_inByte h) _ s
  have still_idle : (memWrite (inOffset i.val) v s).phase = .idle := by
    rw [after_write]
    exact idle
  refine ⟨?readBack, fun j distinct => ?otherInput, others⟩
  case readBack =>
    have low_byte : ((v.setWidth 8).setWidth 32).toNat = v.toNat % 256 := by
      rw [BitVec.toNat_setWidth_of_le (by decide), BitVec.toNat_setWidth]
    rw [← low_byte, ← inOffset, memRead_of_regAt_idle (regAt_inOffset i.val i.isLt) still_idle, after_write]
    exact congrArg BitVec.toNat (regValue_set_inByte_self i _ s)
  case otherInput =>
    have off_distinct : inOffset j.val ≠ inOffset i.val := by
      simp only [inOffset]
      omega
    rw [← inOffset, ← inOffset, memRead_idle still_idle, memRead_idle idle]
    exact others _ off_distinct

end Sys2Proof.Machine
end

section
/-! PROOFS. The accesses HOST can make, what stops a run, and where the window stands on the bus (R50, R51, R68, R89,
R200). -/

namespace Sys2Proof.Machine

/-- R51: an access that is not 32 bits wide, aligned and inside the window has the name of its refusal; a 32-bit one is
not refused for its width. -/
theorem accessRefusal_of_not_legal {off width : Nat} (h : legalAccess off width ≠ true) :
    ∃ r, accessRefusal off width = some r ∧
      (width ≠ 4 ∧ r = .accessWidth ∨ r = .accessMisaligned ∨ r = .accessOutsideWindow) := by
  rw [Ne, legalAccess_iff] at h
  unfold accessRefusal
  split_ifs with hwidth halign hwindow
  · exact ⟨_, rfl, .inl ⟨hwidth, rfl⟩⟩
  · exact ⟨_, rfl, .inr (.inl rfl)⟩
  · exact ⟨_, rfl, .inr (.inr rfl)⟩
  · omega

theorem withAccess_refused {off width : Nat} {r : Refusal} (h : accessRefusal off width = some r) (go : State) :
    withAccess off width go = .refused r := by
  rw [withAccess, h]

/-- R51: the reads of a POLL line are 32 bits wide. -/
theorem legalAccess_word_iff (off : Nat) : legalAccess off 4 = true ↔ off % 4 = 0 ∧ off ≤ 0xFFC := by
  simp [legalAccess_iff]

/-- Settles O28: a legal access goes on with what its line does, any other has the refusal of its access. -/
theorem onlyAlignedWordAccesses : Obligations.OnlyAlignedWordAccesses := by
  intro s off width v mask val name
  rw [← legalAccess_iff, ← legalAccess_word_iff]
  refine ⟨fun legal => ?goesOn, fun illegal => ?refused, fun legal value => ?pollDone, fun legal value => ?pollAgain,
    fun illegal => ?pollRefused⟩
  case goesOn =>
    rw [← hostRead_eq]
    exact ⟨withAccess_legal legal _, withAccess_legal legal _⟩
  case refused =>
    obtain ⟨r, hr, hname⟩ := accessRefusal_of_not_legal illegal
    exact ⟨r, hname.imp_left And.right, withAccess_refused hr _, withAccess_refused hr _⟩
  case pollDone =>
    rw [← hostPoll_done value]
    exact withAccess_legal legal _
  case pollAgain =>
    rw [linePoll, ← hostPoll_again value]
    exact withAccess_legal legal _
  case pollRefused =>
    obtain ⟨r, hr, ⟨hwidth, -⟩ | hname⟩ := accessRefusal_of_not_legal illegal
    · exact absurd rfl hwidth
    · exact ⟨r, hname, withAccess_refused hr _⟩

/-! ### HOST's program from one step to the next -/

theorem issue_program (w : Word) (s : State) : (issue w s).program = s.program := by
  obtain ⟨op, -, hissue⟩ | ⟨-, hissue⟩ := issue_cases w s <;> rw [hissue] <;> rfl

theorem memWrite_program (off : Nat) (v : Word) (s : State) : (memWrite off v s).program = s.program := by
  cases hphase : s.phase with
  | busy op =>
    obtain ⟨wbusy, hwrite⟩ := memWrite_busy hphase off v
    rw [hwrite]
  | idle =>
    simp only [memWrite, whenIdle_idle hphase]
    cases regAt off
    case cmd => exact issue_program v s
    all_goals rfl

/-- A POLL line is the one action of HOST that can stay at the head of the program (R89). -/
theorem hostAct_program {a : HostAction} {s t : State} (h : hostAct a s = .next t) :
    t.program = s.program ∨ t.program = a :: s.program := by
  obtain ⟨-, ht⟩ := hostAct_next h
  cases a with
  | read off width name => rw [ht, hostRead_eq]; exact .inl (memRead_program off s)
  | write off width v => rw [ht]; exact .inl (memWrite_program off v s)
  | reset => rw [ht]; exact .inl rfl
  | poll off mask val =>
    rw [ht]
    by_cases value : (memRead off s).1 &&& mask = val
    · rw [hostPoll_done value]; exact .inl (memRead_program off s)
    · rw [hostPoll_again value]; exact .inr rfl

/-- HOST's program brings no action it did not hold. -/
theorem hostAct_program_subset {a : HostAction} {rest : List HostAction} {s t : State} (h : hostAct a s = .next t)
    (hrest : s.program = rest) : t.program ⊆ a :: rest := by
  obtain hsame | hstays := hostAct_program h
  · rw [hsame, hrest]; exact List.subset_cons_self a rest
  · rw [hstays, hrest]; exact List.Subset.refl _

theorem exec_program {op : Instr} {s t : State} (h : exec op s = .next t) : t.program = s.program := by
  obtain ⟨_, _, _, _, -, rfl⟩ | ⟨_, -, -, rfl⟩ := exec_cases h <;> rfl

/-! ### A step, read forwards (R20, R85) -/

theorem engineMoves_iff (s : State) : engineMoves s = true ↔ s.delay = 0 ∨ s.program = [] := by
  simp [engineMoves]

theorem step_idle {s : State} (idle : s.phase = .idle) : step s = hostStep s := by
  simp [step, idle]

theorem step_engine {s : State} {op : Instr} (busy : s.phase = .busy op) (engine : engineMoves s = true) :
    step s = exec op s := by
  simp [step, busy, engine]

theorem hostStep_cons {s : State} {a : HostAction} {rest : List HostAction} (h : s.program = a :: rest) :
    hostStep s = hostAct a { s with program := rest } := by
  simp [hostStep, h]

/-- While a command is in flight and HOST's turn has come, its first action acts on the latency counted down. -/
theorem step_busy_host {s : State} {op : Instr} {a : HostAction} {rest : List HostAction} (busy : s.phase = .busy op)
    (turn : 0 < s.delay) (h : s.program = a :: rest) :
    step s = hostAct a { countDown s with program := rest } := by
  have not_engine : engineMoves s ≠ true := by
    simp [engineMoves_iff, h]
    omega
  simp only [step, busy, if_neg not_engine]
  exact hostStep_cons h

/-- A step is ENGINE's completion, HOST waiting, or HOST's first action, whatever comes of it. -/
theorem step_eq_cases (s : State) :
    (∃ op, s.phase = .busy op ∧ step s = exec op s) ∨ step s = .next s ∨
      ∃ a rest u, s.program = a :: rest ∧ u.program = rest ∧ step s = hostAct a u := by
  cases hprogram : s.program with
  | nil =>
    cases hphase : s.phase with
    | idle =>
      refine .inr (.inl ?_)
      rw [step_idle hphase, hostStep, hprogram]
    | busy op => exact .inl ⟨op, rfl, step_engine hphase ((engineMoves_iff s).2 (.inr hprogram))⟩
  | cons a rest =>
    cases hphase : s.phase with
    | idle => exact .inr (.inr ⟨a, rest, _, rfl, rfl, (step_idle hphase).trans (hostStep_cons hprogram)⟩)
    | busy op =>
      obtain hdelay | hdelay := Nat.eq_zero_or_pos s.delay
      · exact .inl ⟨op, rfl, step_engine hphase ((engineMoves_iff s).2 (.inl hdelay))⟩
      · exact .inr (.inr ⟨a, rest, _, rfl, rfl, step_busy_host hphase hdelay hprogram⟩)

/-- With well-formed actions a step always goes on, and HOST has no action left that it did not have. -/
theorem step_progress {s : State} (ok : s.ProgramOk) : ∃ t, step s = .next t ∧ t.program ⊆ s.program := by
  obtain ⟨op, -, hstep⟩ | hstep | ⟨a, rest, u, hprogram, hrest, hstep⟩ := step_eq_cases s
  · obtain ⟨t, hexec⟩ := exec_next op s
    exact ⟨t, hstep.trans hexec, exec_program hexec ▸ List.Subset.refl _⟩
  · exact ⟨s, hstep, List.Subset.refl _⟩
  · obtain ⟨t, hact⟩ := hostAct_wf (ok a (by simp [hprogram])) u
    exact ⟨t, hstep.trans hact, hprogram ▸ hostAct_program_subset hact hrest⟩

theorem refused_ne_next {r : Refusal} {t : State} :
    (.refused r : Host.Outcome State Fault Refusal) ≠ .next t := nofun

/-- Settles O39: progress by `step_progress`; a completion and a waiting HOST are never refused, and neither is a
well-formed action. -/
theorem onlyBadAccessesStopTheMachine : Obligations.OnlyBadAccessesStopTheMachine := by
  refine ⟨fun s ok => ?progress, fun s r refused => ?culprit⟩
  case progress =>
    obtain ⟨t, hstep, hsubset⟩ := step_progress ok
    exact ⟨t, hstep, fun a ha => ok a (hsubset ha)⟩
  case culprit =>
    obtain ⟨op, -, hstep⟩ | hstep | ⟨a, rest, u, hprogram, -, hstep⟩ := step_eq_cases s
    · obtain ⟨t, hexec⟩ := exec_next op s
      exact absurd (refused.symm.trans (hstep.trans hexec)) refused_ne_next
    · exact absurd (refused.symm.trans hstep) refused_ne_next
    · refine ⟨a, rest, hprogram, Bool.eq_false_iff.2 fun wf => ?_⟩
      obtain ⟨t, hact⟩ := hostAct_wf wf u
      exact absurd (refused.symm.trans (hstep.trans hact)) refused_ne_next

/-- Settles O49: adding WINDOW_BASE and taking it off again. -/
theorem windowIsBaseAndOffset : Obligations.WindowIsBaseAndOffset := by
  refine ⟨fun off inside => ?seen, fun addr off seen => ?inside⟩
  case seen =>
    have in_window : Config.windowBase ≤ busAddress off ∧ busAddress off < Config.windowBase + windowBytes := by
      simp only [busAddress, windowBytes]
      omega
    rw [offsetOfBus, if_pos in_window, busAddress, Nat.add_sub_cancel_left]
  case inside =>
    obtain ⟨⟨hlow, hhigh⟩, hoff⟩ := Option.ite_none_right_eq_some.1 seen
    have hoff : addr - Config.windowBase = off := Option.some.inj hoff
    simp only [busAddress, windowBytes] at hhigh ⊢
    omega

end Sys2Proof.Machine
end

section
/-! PROOFS. A command in flight: HOST cannot disturb it, and a WAIT line ends when it has completed (R63, R64, R85, R90,
R204, R234, R238). -/

namespace Sys2Proof.Machine

/-- The block's registers, PHASE and STATUS but for WBUSY: the state with HOST's and the model's own fields blank. -/
def State.registers (s : State) : State :=
  { s with
    status := { s.status with wbusy := false }
    program := []
    reads := []
    givenLatencies := []
    delay := 0
    draws := 0 }

/-- A completion looks at the registers alone, and what it leaves in them depends on nothing else. -/
theorem exec_registers {op : Instr} {s t : State} (h : exec op s = .next t) :
    exec op s.registers = .next t.registers := by
  cases op with
  | encode =>
    simp only [exec, execEncode] at h ⊢
    split at h
    · next length => cases h; exact if_pos length
    · next length => cases h; exact if_neg length
  | decode =>
    simp only [exec, execDecode] at h ⊢
    split at h
    · next length =>
      refine (if_pos length).trans ?_
      split at h
      · next tail => cases h; exact if_pos tail
      · next tail => cases h; exact if_neg tail
    · next length => cases h; exact if_neg length
  | encipher => cases h; rfl
  | decipher => cases h; rfl

/-- R85: the same registers at completion give the same results. -/
theorem exec_registers_congr {op : Instr} {s s' t t' : State} (same : s.registers = s'.registers)
    (h : exec op s = .next t) (h' : exec op s' = .next t') : t.registers = t'.registers :=
  Host.Outcome.next.inj ((exec_registers h).symm.trans ((congrArg (exec op) same).trans (exec_registers h')))

/-- R64, R204: while BUSY an action of HOST other than reset changes WBUSY, HOST's own fields and the draw counter at
most. -/
theorem hostAct_busy {a : HostAction} {s t : State} {op : Instr} (h : hostAct a s = .next t)
    (busy : s.phase = .busy op) (not_reset : a ≠ .reset) :
    ∃ wbusy program reads draws, t = { s with
      status := { s.status with wbusy := wbusy }
      program := program
      reads := reads
      draws := draws } := by
  obtain ⟨-, ht⟩ := hostAct_next h
  cases a with
  | reset => exact absurd rfl not_reset
  | write off width v =>
    obtain ⟨wbusy, hwrite⟩ := memWrite_busy busy off v
    exact ⟨wbusy, _, _, _, ht.trans hwrite⟩
  | read off width name =>
    obtain ⟨draws, hread, -⟩ := memRead_state off s
    rw [ht, hostRead_eq, hread]
    exact ⟨_, _, _, _, rfl⟩
  | poll off mask val =>
    obtain ⟨draws, hread, -⟩ := memRead_state off s
    by_cases value : (memRead off s).1 &&& mask = val
    · rw [ht, hostPoll_done value, hread]
      exact ⟨_, _, _, _, rfl⟩
    · rw [ht, hostPoll_again value, hread]
      exact ⟨_, _, _, _, rfl⟩

/-- R85: with HOST's accesses legal and no reset among them, a step while BUSY is the completion, or leaves the
registers and takes 1 from the latency left. -/
theorem step_in_flight {s : State} {op : Instr} (busy : s.phase = .busy op) (ok : s.ProgramOk) (no_reset : s.NoReset) :
    step s = exec op s ∨
      ∃ t, step s = .next t ∧ t.registers = s.registers ∧ t.delay + 1 = s.delay ∧ t.program ⊆ s.program := by
  by_cases engine : engineMoves s = true
  · exact .inl (step_engine busy engine)
  · rw [engineMoves_iff, not_or] at engine
    obtain ⟨hdelay, hprogram⟩ := engine
    obtain ⟨a, rest, hprogram⟩ := List.exists_cons_of_ne_nil hprogram
    have ha : a ∈ s.program := by simp [hprogram]
    have hstep := step_busy_host busy (Nat.pos_of_ne_zero hdelay) hprogram
    obtain ⟨t, hact⟩ := hostAct_wf (ok a ha) { countDown s with program := rest }
    have hsubset : t.program ⊆ s.program := hprogram ▸ hostAct_program_subset hact rfl
    obtain ⟨_, _, _, _, rfl⟩ := hostAct_busy hact busy fun h => no_reset (h ▸ ha)
    exact .inr ⟨_, hstep.trans hact, rfl, Nat.succ_pred_eq_of_ne_zero hdelay, hsubset⟩

theorem stepN_succ {s t : State} (h : step s = .next t) (n : Nat) : stepN (n + 1) s = stepN n t := by
  simp [stepN, h]

/-- The command in flight completes with the results it would have at once, by recursion on the latency left. -/
theorem completion_in_flight {op : Instr} (s : State) (busy : s.phase = .busy op) (ok : s.ProgramOk)
    (no_reset : s.NoReset) :
    ∃ (n : Nat) (t u : State), n ≤ s.delay + 1 ∧ stepN n s = .next t ∧ exec op s = .next u ∧
      t.registers = u.registers := by
  obtain hstep | ⟨s', hstep, hregisters, hdelay, hsubset⟩ := step_in_flight busy ok no_reset
  · obtain ⟨u, hexec⟩ := exec_next op s
    exact ⟨1, u, u, Nat.le_add_left 1 _, stepN_succ (hstep.trans hexec) 0, hexec, rfl⟩
  · have busy' : s'.phase = .busy op := (congrArg State.phase hregisters).trans busy
    obtain ⟨n, t, u', hn, hrun, hexec', hsame⟩ :=
      completion_in_flight s' busy' (fun a ha => ok a (hsubset ha)) (fun h => no_reset (hsubset h))
    obtain ⟨u, hexec⟩ := exec_next op s
    exact ⟨n + 1, t, u, by omega, (stepN_succ hstep n).trans hrun, hexec,
      hsame.trans (exec_registers_congr hregisters hexec' hexec)⟩
termination_by s.delay

/-- Settles O41: `completion_in_flight`, read register by register. -/
theorem hostCannotDisturbCommandInFlight : Obligations.HostCannotDisturbCommandInFlight := by
  intro s op busy ok no_reset
  obtain ⟨n, t, u, hn, hrun, hexec, hsame⟩ := completion_in_flight s busy ok no_reset
  simp only [State.registers, State.mk.injEq, Status.mk.injEq] at hsame
  obtain ⟨v0, v1, inBuf, inLen, outBuf, outLen, ⟨busy, done, err, ecode, -⟩, phase, -⟩ := hsame
  exact ⟨n, t, u, hn, hrun, hexec, v0, v1, inBuf, inLen, outBuf, outLen, phase, busy, done, err, ecode⟩

/-! ### WAIT (R90) -/

/-- R30: bit 0 of the STATUS word is BUSY. -/
theorem Status.toWord_and_one (st : Status) : st.toWord &&& 1#32 = flagBit st.busy := by
  refine BitVec.eq_of_getLsbD_eq fun i _ => ?_
  rw [BitVec.getLsbD_and, Status.toWord_getLsbD, flagBit_getLsbD]
  by_cases hi : i = 0 <;> simp [hi]

/-- R53: a read of STATUS changes nothing, in any PHASE. -/
theorem memRead_status (s : State) : memRead offStatus s = (s.status.toWord, s) :=
  memRead_plain rfl s

theorem legalAccess_status : legalAccess offStatus 4 = true := rfl

/-- The poll of a WAIT line is done when BUSY is 0. -/
theorem hostAct_wait_done {s : State} (h : s.status.busy = false) : hostAct lineWait s = .next s := by
  have value : (memRead offStatus s).1 &&& 1#32 = 0#32 := by
    rw [memRead_status, Status.toWord_and_one, h]
    rfl
  refine (withAccess_legal legalAccess_status _).trans ?_
  rw [hostPoll_done value, memRead_status]

/-- The poll of a WAIT line stays while BUSY is 1. -/
theorem hostAct_wait_again {s : State} (h : s.status.busy = true) :
    hostAct lineWait s = .next { s with program := lineWait :: s.program } := by
  have value : (memRead offStatus s).1 &&& 1#32 ≠ 0#32 := by
    rw [memRead_status, Status.toWord_and_one, h]
    decide
  refine (withAccess_legal legalAccess_status _).trans ?_
  rw [hostPoll_again value, memRead_status]
  rfl

/-- With WAIT at the head of HOST's program a step while BUSY only takes 1 from the latency left. -/
theorem step_wait_busy {s : State} {op : Instr} {rest : List HostAction} (busy : s.phase = .busy op)
    (flag : s.status.busy = true) (wait : s.program = lineWait :: rest) (turn : 0 < s.delay) :
    step s = .next (countDown s) := by
  rw [step_busy_host busy turn wait]
  refine (hostAct_wait_again (s := { countDown s with program := rest }) flag).trans ?_
  rw [← wait]
  rfl

/-- Waiting uses up the latency and changes nothing else. -/
theorem stepN_wait_busy {op : Instr} {rest : List HostAction} (s : State) (busy : s.phase = .busy op)
    (flag : s.status.busy = true) (wait : s.program = lineWait :: rest) :
    stepN s.delay s = .next { s with delay := 0 } := by
  obtain ⟨v0, v1, inBuf, inLen, outBuf, outLen, status, phase, program, reads, givenLatencies, delay, draws⟩ := s
  induction delay with
  | zero => rfl
  | succ d ih => exact (stepN_succ (step_wait_busy busy flag wait d.succ_pos) d).trans (ih busy flag wait)

theorem stepN_add {m : Nat} {s t : State} (h : stepN m s = .next t) (n : Nat) : stepN (m + n) s = stepN n t := by
  induction m generalizing s with
  | zero =>
    obtain rfl : s = t := Host.Outcome.next.inj h
    rw [Nat.zero_add]
  | succ m ih =>
    rw [stepN] at h
    split at h
    · next s' hstep =>
      rw [Nat.succ_add, stepN_succ hstep]
      exact ih h
    · cases h
    · cases h

/-- A completion leaves the block IDLE with BUSY 0 and DONE or ERR set. -/
theorem exec_completed {op : Instr} {s t : State} (h : exec op s = .next t) :
    t.phase = .idle ∧ t.status.busy = false ∧ (t.status.done = true ∨ t.status.err = true) := by
  obtain ⟨_, _, _, _, -, rfl⟩ | ⟨_, -, -, rfl⟩ := exec_cases h
  · exact ⟨rfl, rfl, .inl rfl⟩
  · exact ⟨rfl, rfl, .inr rfl⟩

/-- Settles O43: the latency runs out, ENGINE completes, and the next poll is the last. -/
theorem waitEndsWhenCommandCompletes : Obligations.WaitEndsWhenCommandCompletes := by
  intro s op rest control busy wait
  have flag : s.status.busy = true := control.busy_iff.2 (by simp [busy])
  obtain ⟨u, hexec⟩ := exec_next op { s with delay := 0 }
  obtain ⟨idle, not_busy, ended⟩ := exec_completed hexec
  have engine : step { s with delay := 0 } = .next u :=
    (step_engine (s := { s with delay := 0 }) busy rfl).trans hexec
  have still_waiting : u.program = lineWait :: rest := (exec_program hexec).trans wait
  have last_poll : step u = .next { u with program := rest } := by
    rw [step_idle idle, hostStep_cons still_waiting]
    exact hostAct_wait_done not_busy
  refine ⟨s.delay + 2, { u with program := rest }, le_rfl, ?_, rfl, idle, ended⟩
  calc stepN (s.delay + 2) s = stepN 2 { s with delay := 0 } := stepN_add (stepN_wait_busy s busy flag wait) 2
    _ = stepN 1 u := stepN_succ engine 1
    _ = .next { u with program := rest } := stepN_succ last_poll 0

end Sys2Proof.Machine
end

section
/-! PROOFS. The decoder and the encoder of command words agree, and what issue does with a word (R80 to R82, R84,
R87). -/

namespace Sys2Proof.Machine

/-- R80, R81: every row of the table compares all 32 bits, with its command's word. -/
theorem opcodeTable_rows : ∀ r ∈ opcodeTable, r.mask = BitVec.allOnes 32 ∧ r.pattern = encode r.instr := by decide

/-- R81, R83: the law of each command's encoding, for all four. -/
theorem commandEncoding (op : Instr) : Laws.CommandEncoding.Statement op := by
  cases op with
  | encode => exact Laws.CommandEncoding.encode
  | decode => exact Laws.CommandEncoding.decode
  | encipher => exact Laws.CommandEncoding.encipher
  | decipher => exact Laws.CommandEncoding.decipher

/-- R81: each command's word decodes to it. -/
theorem decode_encode (op : Instr) : decode (encode op) = .ok op := by
  obtain ⟨-, hdecode, -⟩ := commandEncoding op
  exact hdecode

/-- R87: a word that decodes to a command is its word, since the row found compares all 32 bits. -/
theorem eq_encode_of_decode {w : Word} {op : Instr} (h : decode w = .ok op) : w = encode op := by
  unfold decode at h
  split at h
  · next r found =>
    obtain ⟨full_mask, pattern⟩ := opcodeTable_rows r (List.mem_of_find?_eq_some found)
    have matched : w &&& r.mask = r.pattern := by simpa using List.find?_some found
    rw [full_mask, BitVec.and_allOnes, pattern] at matched
    rw [matched, Except.ok.inj h]
  · cases h

theorem decode_ok_iff (w : Word) (op : Instr) : decode w = .ok op ↔ w = encode op :=
  ⟨eq_encode_of_decode, fun h => h ▸ decode_encode op⟩

/-- R82: a word is illegal exactly when it is no command's word. -/
theorem decode_error_iff_ne_encode (w : Word) :
    decode w = .error .illegalCommandWord ↔ ∀ op, w ≠ encode op := by
  cases h : decode w with
  | ok op => simpa using ⟨op, eq_encode_of_decode h⟩
  | error e =>
    cases e
    simpa using fun op => mt (decode_ok_iff w op).2 (by simp [h])

/-- R81, R82: the four legal words as numbers. -/
theorem decode_error_iff (w : Word) :
    decode w = .error .illegalCommandWord ↔
      w ≠ 0x00000001#32 ∧ w ≠ 0x00000002#32 ∧ w ≠ 0x00000003#32 ∧ w ≠ 0x00000004#32 := by
  rw [decode_error_iff_ne_encode]
  constructor
  · exact fun h => ⟨h .encode, h .decode, h .encipher, h .decipher⟩
  · rintro ⟨h1, h2, h3, h4⟩ op
    cases op
    exacts [h1, h2, h3, h4]

/-- R87: a 32-bit number is looked up as it stands. -/
theorem decodeTableWord_toNat (w : Word) : decodeTableWord 32 w.toNat = (decode w).toOption := by
  have low_bits : w.toNat % 2 ^ 32 = w.toNat := Nat.mod_eq_of_lt w.isLt
  rw [decodeTableWord, low_bits, if_pos w.isLt, BitVec.ofNat_toNat, BitVec.setWidth_eq]

/-- Settles O3, from the table's rows: each compares all 32 bits with its command's word. -/
theorem decodeEncodeAgree : Obligations.DecodeEncodeAgree :=
  ⟨decode_ok_iff, decode_error_iff, decodeTableWord_toNat⟩

/-- Settles O2: the four words by `decode_encode`, their neighbours by `decode_error_iff`. -/
theorem commandWordsDecode : Obligations.CommandWordsDecode := by
  refine ⟨decode_encode .encode, decode_encode .decode, decode_encode .encipher, decode_encode .decipher,
    ?zero, ?five, ?upperBit, ?allOnes⟩
  all_goals exact (decode_error_iff _).2 (by decide)

/-- Settles O30: acceptance for a command's word, IllegalCommand for any other. -/
theorem issueAcceptsOrRaises : Obligations.IssueAcceptsOrRaises := by
  refine ⟨fun op s => ?legal, fun w s h1 h2 h3 h4 => ?illegal⟩
  case legal => exact ⟨nextLatency op s, issue_of_decode (decode_encode op) s⟩
  case illegal => exact issue_of_illegal ((decode_error_iff w).2 ⟨h1, h2, h3, h4⟩) s

end Sys2Proof.Machine
end

section
/-! PROOFS. The text of a bus transaction reads back (R51, R89). -/

namespace Sys2Proof.Machine

theorem hexValue_hexDigit {n : Nat} (h : n < 16) : hexValue (hexDigit n) = some n := by
  have every_digit : ∀ d : Fin 16, hexValue (hexDigit d.val) = some d.val := by decide
  exact every_digit ⟨n, h⟩

theorem hexText_length (digits n : Nat) : (hexText digits n).length = digits := by
  induction digits generalizing n with
  | zero => rfl
  | succ digits ih => simp [hexText, ih]

theorem hexNumber_append (acc : Nat) (xs ys : List Char) :
    hexNumber acc (xs ++ ys) = (hexNumber acc xs).bind fun n => hexNumber n ys := by
  induction xs generalizing acc with
  | nil => rfl
  | cons c cs ih =>
    simp only [List.cons_append, hexNumber]
    cases hexValue c with
    | none => rfl
    | some d => exact ih (16 * acc + d)

/-- One digit read on from `acc`. -/
theorem hexNumber_hexDigit (acc : Nat) {n : Nat} (h : n < 16) : hexNumber acc [hexDigit n] = some (16 * acc + n) := by
  simp [hexNumber, hexValue_hexDigit h]

/-- A number that fits in its digits reads back. -/
theorem hexNumber_hexText {digits n : Nat} (h : n < 16 ^ digits) : hexNumber 0 (hexText digits n) = some n := by
  induction digits generalizing n with
  | zero =>
    obtain rfl : n = 0 := by simpa using h
    rfl
  | succ digits ih =>
    have upper : n / 16 < 16 ^ digits := by rw [pow_succ] at h; omega
    rw [hexText, hexNumber_append, ih upper, Option.bind_some, hexNumber_hexDigit _ (Nat.mod_lt n (by decide)),
      Nat.div_add_mod]

/-- R89: what a `W` line's text is read as. -/
theorem ofText_write {off v : Nat} {a b c : Char} {data : List Char} (hoff : hexNumber 0 [a, b, c] = some off)
    (hdata : hexNumber 0 data = some v) (eight : data.length = 8) :
    Transaction.ofText ('W' :: ' ' :: a :: b :: c :: ' ' :: data) = some (.write off (BitVec.ofNat 32 v)) := by
  simp [Transaction.ofText, hoff, hdata, eight]

/-- R89: what an `R` line's text is read as. -/
theorem ofText_read {off : Nat} {a b c : Char} (hoff : hexNumber 0 [a, b, c] = some off) :
    Transaction.ofText ['R', ' ', a, b, c] = some (.read off) := by
  simp [Transaction.ofText, hoff]

/-- R51, R89: a legal offset reads back from its 3 digits. -/
theorem hexNumber_legal_offset {off : Nat} (legal : legalAccess off 4 = true) :
    hexNumber 0 (hexText 3 off) = some off := by
  obtain ⟨-, inside⟩ := (legalAccess_word_iff off).1 legal
  exact hexNumber_hexText (by omega)

/-- R89: a transaction HOST can make reads back from its text. -/
theorem ofText_text {t : Transaction} (legal : t.wf = true) : Transaction.ofText t.text = some t := by
  cases t with
  | read off => exact ofText_read (hexNumber_legal_offset legal)
  | write off data =>
    have eight_digits : hexNumber 0 (hexText 8 data.toNat) = some data.toNat := hexNumber_hexText data.isLt
    have reads_back := ofText_write (hexNumber_legal_offset legal) eight_digits (hexText_length 8 _)
    rwa [BitVec.ofNat_toNat, BitVec.setWidth_eq] at reads_back

/-- Settles O4: the text reads back, so it determines the transaction. -/
theorem transactionTextReadsBack : Obligations.TransactionTextReadsBack := by
  refine ⟨fun t legal => ofText_text legal, fun t u t_legal u_legal same => ?_⟩
  refine Option.some.inj ?_
  calc some t = Transaction.ofText t.text := (ofText_text t_legal).symm
    _ = Transaction.ofText u.text := congrArg _ same
    _ = some u := ofText_text u_legal

end Sys2Proof.Machine
end

section
/-! PROOFS. What every command completes with, what it leaves unchanged, and what its results depend on
(R83, R85, R86, R110, R111, R147, R148). -/

namespace Sys2Proof.Machine

/-- Settles O19: the two ways of `exec_cases`. -/
theorem everyCommandCompletes : Obligations.EveryCommandCompletes := by
  intro op s
  obtain ⟨t, hexec⟩ := exec_next op s
  refine ⟨t, hexec, ?_⟩
  obtain ⟨_, _, _, _, -, rfl⟩ | ⟨e, hkind, framed, rfl⟩ := exec_cases hexec
  · exact ⟨rfl, .inl rfl⟩
  · have code : e.code = .invalidLength ∨ e.code = .formatMismatch :=
      hkind.imp (congrArg ErrorKind.code) (congrArg ErrorKind.code)
    exact ⟨rfl, .inr ⟨framed, e.code, code, rfl⟩⟩

/-! ### The completion of ENCODE and DECODE, by the tests it makes -/

/-- R147: the Block that ENCODE gives for the 8 bytes `b`. -/
def encipheredBlock (b : Vector Byte 8) : Word × Word := encipher (block b).1 (block b).2 keyWords

/-- R148: the Block that DECODE gives for the 8 bytes `b`. -/
def decipheredBlock (b : Vector Byte 8) : Word × Word := decipher (block b).1 (block b).2 keyWords

/-- R147, R148: what a framed success writes: the Block `r` in V0, V1 and OUT[0..7], `tail` in OUT[8..23]. -/
def framedSuccess (r : Word × Word) (tail : Vector Byte 16) (len : Word) (s : State) : State :=
  succeed { s with v0 := r.1, v1 := r.2, outBuf := join24 (unblock r.1 r.2) tail, outLen := len }

section FramedSuccess

variable (r : Word × Word) (tail : Vector Byte 16) (len : Word) (s : State)

@[simp] theorem framedSuccess_v0 : (framedSuccess r tail len s).v0 = r.1 := rfl
@[simp] theorem framedSuccess_v1 : (framedSuccess r tail len s).v1 = r.2 := rfl
@[simp] theorem framedSuccess_outBuf : (framedSuccess r tail len s).outBuf = join24 (unblock r.1 r.2) tail := rfl
@[simp] theorem framedSuccess_outLen : (framedSuccess r tail len s).outLen = len := rfl
@[simp] theorem framedSuccess_status : (framedSuccess r tail len s).status = s.status.succeeded := rfl

end FramedSuccess

theorem exec_encode_success {s : State} (length : s.inLen = 8) :
    exec .encode s = .next (framedSuccess (encipheredBlock (slice s.inBuf 0 8)) suffix 24 s) :=
  if_pos length

theorem exec_encode_invalidLength {s : State} (length : s.inLen ≠ 8) :
    exec .encode s = .next (raiseError .invalidLength s) :=
  if_neg length

theorem exec_decode_success {s : State} (length : s.inLen = 24) (tail : slice s.inBuf 8 16 = suffix) :
    exec .decode s = .next (framedSuccess (decipheredBlock (slice s.inBuf 0 8)) (slice s.outBuf 8 16) 8 s) :=
  (if_pos length).trans (if_pos tail)

theorem exec_decode_formatMismatch {s : State} (length : s.inLen = 24) (tail : slice s.inBuf 8 16 ≠ suffix) :
    exec .decode s = .next (raiseError .formatMismatch s) :=
  (if_pos length).trans (if_neg tail)

theorem exec_decode_invalidLength {s : State} (length : s.inLen ≠ 24) :
    exec .decode s = .next (raiseError .invalidLength s) :=
  if_neg length

/-- R148: DECODE leaves OUT[8..23], whether it succeeds or not. -/
theorem exec_decode_out_tail {s t : State} (h : exec .decode s = .next t) :
    slice t.outBuf 8 16 = slice s.outBuf 8 16 := by
  by_cases length : s.inLen = 24
  · by_cases tail : slice s.inBuf 8 16 = suffix
    · obtain rfl := Host.Outcome.next.inj ((exec_decode_success length tail).symm.trans h)
      exact slice_join24_tail _ _
    · obtain rfl := Host.Outcome.next.inj ((exec_decode_formatMismatch length tail).symm.trans h)
      rfl
  · obtain rfl := Host.Outcome.next.inj ((exec_decode_invalidLength length).symm.trans h)
    rfl

/-! ### Frames (R83) -/

/-- R83: the registers of the window that a command's completion may write. -/
def writes (op : Instr) : Reg → Prop
  | .status | .v0 | .v1 => True
  | .outLen => op = .encode ∨ op = .decode
  | .outByte i => op = .encode ∨ op = .decode ∧ i.val < 8
  | .cmd | .inLen | .inByte _ | .reserved => False

theorem getElem_eq_of_slice_tail_eq {b b' : Vector Byte 24} (same : slice b 8 16 = slice b' 8 16) {i : Nat} (hi : 8 ≤ i)
    (hlt : i < 24) : b[i] = b'[i] := by
  rw [← join24_slices b, ← join24_slices b', same]
  simp only [join24_getElem, dif_neg hi.not_gt]

/-- A completion leaves the OUT bytes that are not its command's. -/
theorem exec_outByte_eq {op : Instr} {s t : State} (h : exec op s = .next t) {i : Fin 24}
    (kept : ¬ writes op (.outByte i)) : t.outBuf[i] = s.outBuf[i] := by
  obtain ⟨same, -⟩ | ⟨rfl, -⟩ | ⟨rfl, -⟩ := exec_out h
  · rw [same]
  · exact absurd (.inl rfl) kept
  · have beyond : 8 ≤ i.val := Nat.le_of_not_lt fun low => kept (.inr ⟨rfl, low⟩)
    exact getElem_eq_of_slice_tail_eq (exec_decode_out_tail h) beyond i.isLt

/-- A completion of a command that is not framed leaves OUT and OUT_LEN. -/
theorem exec_out_eq_of_not_framed {op : Instr} {s t : State} (h : exec op s = .next t)
    (raw : ¬ (op = .encode ∨ op = .decode)) : t.outBuf = s.outBuf ∧ t.outLen = s.outLen := by
  obtain same | ⟨hop, -⟩ | ⟨hop, -⟩ := exec_out h
  · exact same
  · exact absurd (.inl hop) raw
  · exact absurd (.inr hop) raw

/-- R83: a register that the command does not write holds what it held. -/
theorem exec_regValue_eq {op : Instr} {s t : State} (h : exec op s = .next t) {r : Reg} (kept : ¬ writes op r) :
    regValue r t = regValue r s := by
  obtain ⟨inBuf, inLen⟩ := exec_in_eq h
  cases r with
  | status | v0 | v1 => exact absurd trivial kept
  | cmd | reserved => rfl
  | inLen => exact inLen
  | inByte i => simp only [regValue, inBuf]
  | outLen => exact (exec_out_eq_of_not_framed h kept).2
  | outByte i => exact congrArg (BitVec.setWidth 32) (exec_outByte_eq h kept)

/-- R52, R83: the offsets at which a command's completion may write. -/
theorem offset_of_writes {op : Instr} {off : Nat} (h : writes op (regAt off)) :
    off = 0x004 ∨ off = 0x010 ∨ off = 0x014 ∨ (op = .encode ∨ op = .decode) ∧ off = 0x00C ∨
      op = .encode ∧ (0x200 ≤ off ∧ off < 0x260) ∨ op = .decode ∧ (0x200 ≤ off ∧ off < 0x220) := by
  have stands := regAt_standsAt off
  generalize regAt off = r at h stands
  cases r with
  | status => exact .inl stands
  | v0 => exact .inr (.inl stands)
  | v1 => exact .inr (.inr (.inl stands))
  | outLen => exact .inr (.inr (.inr (.inl ⟨h, stands⟩)))
  | outByte i =>
    have hoff : off = 0x200 + 4 * i.val := stands
    obtain hop | ⟨hop, low⟩ := h
    · exact .inr (.inr (.inr (.inr (.inl ⟨hop, by omega⟩))))
    · exact .inr (.inr (.inr (.inr (.inr ⟨hop, by omega⟩))))
  | cmd | inLen | inByte _ | reserved => exact h.elim

theorem exec_reads {op : Instr} {s t : State} (h : exec op s = .next t) : t.reads = s.reads := by
  obtain ⟨_, _, _, _, -, rfl⟩ | ⟨_, -, -, rfl⟩ := exec_cases h <;> rfl

/-- Settles O22: the frame of `exec_regValue_eq`, at the offsets a raw command does not write. -/
theorem rawCommandFrame : Obligations.RawCommandFrame := by
  intro op s t raw hexec
  have not_framed : ¬ (op = .encode ∨ op = .decode) := by obtain rfl | rfl := raw <;> decide
  obtain ⟨not_encode, not_decode⟩ := not_or.1 not_framed
  obtain ⟨inBuf, inLen⟩ := exec_in_eq hexec
  obtain ⟨outBuf, outLen⟩ := exec_out_eq_of_not_framed hexec not_framed
  refine ⟨fun off status v0 v1 => exec_regValue_eq hexec fun written => ?_, exec_wbusy hexec, inBuf, inLen, outBuf,
    outLen, exec_program hexec, exec_reads hexec⟩
  simpa [status, v0, v1, not_encode, not_decode] using offset_of_writes written

/-- Settles O23: the frame of `exec_regValue_eq`, at the offsets each framed command does not write. -/
theorem framedCommandFrame : Obligations.FramedCommandFrame := by
  refine ⟨fun s t hexec off status outLen v0 v1 out => exec_regValue_eq hexec fun written => ?encode,
    fun s t hexec off status outLen v0 v1 out => exec_regValue_eq hexec fun written => ?decode,
    fun op s t _ hexec => ?rest⟩
  case encode => simpa [status, outLen, v0, v1, out] using offset_of_writes written
  case decode => simpa [status, outLen, v0, v1, out] using offset_of_writes written
  case rest =>
    obtain ⟨inBuf, inLen⟩ := exec_in_eq hexec
    exact ⟨exec_wbusy hexec, inBuf, inLen, exec_program hexec, exec_reads hexec⟩

/-! ### What results depend on (R83) -/

theorem slice_head_congr {b b' : Vector Byte 24} (same : ∀ i : Fin 8, b[i.val] = b'[i.val]) :
    slice b 0 8 = slice b' 0 8 :=
  Vector.ext fun i hi => by simpa using same ⟨i, hi⟩

theorem slice_head_getElem {b : Vector Byte 24} (i : Fin 8) : (slice b 0 8)[i] = b[i.val] := by
  simp

/-- R83, R147: ENCODE looks at IN_LEN and, where it is 8, at IN[0..7]. -/
theorem exec_encode_depends {s u t v : State} (hs : exec .encode s = .next t) (hu : exec .encode u = .next v)
    (same_len : s.inLen = u.inLen) (same_in : s.inLen = 8 → slice s.inBuf 0 8 = slice u.inBuf 0 8) :
    t.status.done = v.status.done ∧ t.status.err = v.status.err ∧ t.status.ecode = v.status.ecode ∧
      (t.status.done = true → t.v0 = v.v0 ∧ t.v1 = v.v1 ∧ t.outBuf = v.outBuf ∧ t.outLen = v.outLen) := by
  by_cases length : s.inLen = 8
  · rw [exec_encode_success length, same_in length] at hs
    rw [exec_encode_success (same_len.symm.trans length)] at hu
    cases hs
    cases hu
    simp
  · rw [exec_encode_invalidLength length] at hs
    rw [exec_encode_invalidLength (same_len ▸ length)] at hu
    cases hs
    cases hu
    exact ⟨rfl, rfl, rfl, nofun⟩

/-- R83, R148: DECODE looks at IN_LEN and, where it is 24, at IN. -/
theorem exec_decode_depends {s u t v : State} (hs : exec .decode s = .next t) (hu : exec .decode u = .next v)
    (same_len : s.inLen = u.inLen) (same_in : s.inLen = 24 → s.inBuf = u.inBuf) :
    t.status.done = v.status.done ∧ t.status.err = v.status.err ∧ t.status.ecode = v.status.ecode ∧
      (t.status.done = true → t.v0 = v.v0 ∧ t.v1 = v.v1 ∧ t.outLen = v.outLen ∧
        slice t.outBuf 0 8 = slice v.outBuf 0 8) := by
  by_cases length : s.inLen = 24
  · have length' : u.inLen = 24 := same_len.symm.trans length
    have same_in := same_in length
    by_cases tail : slice u.inBuf 8 16 = suffix
    · rw [exec_decode_success length (by rwa [same_in]), same_in] at hs
      rw [exec_decode_success length' tail] at hu
      cases hs
      cases hu
      simp
    · rw [exec_decode_formatMismatch length (by rwa [same_in])] at hs
      rw [exec_decode_formatMismatch length' tail] at hu
      cases hs
      cases hu
      exact ⟨rfl, rfl, rfl, nofun⟩
  · rw [exec_decode_invalidLength length] at hs
    rw [exec_decode_invalidLength (same_len ▸ length)] at hu
    cases hs
    cases hu
    exact ⟨rfl, rfl, rfl, nofun⟩

/-- Settles O24: one dependence lemma for each framed command; a raw command's Block is a function of V0 and V1. -/
theorem resultsDependOnNamedInputs : Obligations.ResultsDependOnNamedInputs := by
  refine ⟨fun s u t v hs hu same_len same_in => ?encode, fun s u t v hs hu same_len same_in => ?decode,
    fun op s u t v raw hs hu same_v0 same_v1 => ?raw⟩
  case encode => exact exec_encode_depends hs hu same_len fun length => slice_head_congr (same_in length)
  case decode =>
    obtain ⟨done, err, ecode, results⟩ := exec_decode_depends hs hu same_len same_in
    refine ⟨done, err, ecode, fun success => ?_⟩
    obtain ⟨v0, v1, outLen, head⟩ := results success
    exact ⟨v0, v1, outLen, fun i => by rw [← slice_head_getElem, ← slice_head_getElem, head]⟩
  case raw =>
    obtain rfl | rfl := raw
    all_goals
      cases hs
      cases hu
      simp only [succeed_v0, succeed_v1, same_v0, same_v1, and_self]

end Sys2Proof.Machine
end

section
/-! PROOFS. HOST's lines while IDLE, and the steps that take them: the issue of a command word, LOAD_IN and READ_OUT
(R20, R53 to R55, R84, R85, R89, R90). -/

namespace Sys2Proof.Machine

/-- A legal WR line at the head of HOST's program, while IDLE. -/
theorem step_lineWr_idle {s : State} {off : Nat} {v : Word} {rest : List HostAction} (idle : s.phase = .idle)
    (legal : legalAccess off 4 = true) (h : s.program = lineWr off v :: rest) :
    step s = .next (memWrite off v { s with program := rest }) := by
  rw [step_idle idle, hostStep_cons h]
  exact withAccess_legal legal _

/-- A legal RD line at the head of HOST's program, while IDLE. -/
theorem step_lineRd_idle {s : State} {off : Nat} {name : HostName} {rest : List HostAction} (idle : s.phase = .idle)
    (legal : legalAccess off 4 = true) (h : s.program = lineRd off name :: rest) :
    step s = .next { s with program := rest, reads := (name, regValue (regAt off) s) :: s.reads } := by
  have value : memRead off { s with program := rest } = (regValue (regAt off) s, { s with program := rest }) :=
    memRead_idle (s := { s with program := rest }) idle off
  rw [step_idle idle, hostStep_cons h]
  refine (withAccess_legal legal _).trans ?_
  rw [hostRead_eq, value]

/-- R84: while IDLE a write to CMD issues the word. -/
theorem memWrite_offCmd_idle {s : State} (idle : s.phase = .idle) (w : Word) : memWrite offCmd w s = issue w s :=
  whenIdle_idle idle _

/-- Log 4: a legal word stands in PHASE, accepted. -/
theorem withFetchWord_of_decode {w : Word} {op : Instr} (h : decode w = .ok op) (s : State) :
    s.withFetchWord 32 w.toNat = { s with phase := .busy op, status := s.status.accepted, delay := 0 } := by
  simp [State.withFetchWord, decodeTableWord_toNat, h, Except.toOption]

/-- Settles O1: HOST's step on a CMD write, and ENGINE's step in the state the word stands in. -/
theorem stepRunsDecodedCommand : Obligations.StepRunsDecodedCommand := by
  refine ⟨fun s w op rest legal idle program => ?issue, fun s op busy engine => step_engine busy engine,
    fun s w op legal => ?fetched⟩
  case issue =>
    rw [step_lineWr_idle idle rfl program, memWrite_offCmd_idle (s := { s with program := rest }) idle,
      issue_of_decode legal]
  case fetched =>
    rw [withFetchWord_of_decode legal]
    exact ⟨rfl, step_engine rfl rfl⟩

/-! ### LOAD_IN and READ_OUT (R90) -/

/-- A run of `n` steps and one step more. -/
theorem stepN_concat {n : Nat} {s t u : State} (run : stepN n s = .next t) (last : step t = .next u) :
    stepN (n + 1) s = .next u :=
  (stepN_add run 1).trans (stepN_succ last 0)

/-- R52: the offset of IN[i] is one HOST can access. -/
theorem legalAccess_inOffset {i : Nat} (h : i < 24) : legalAccess (inOffset i) 4 = true := by
  rw [legalAccess_word_iff, inOffset]
  omega

/-- R52: the offset of OUT[i] is one HOST can access. -/
theorem legalAccess_outOffset {i : Nat} (h : i < 24) : legalAccess (outOffset i) 4 = true := by
  rw [legalAccess_word_iff, outOffset]
  omega

/-- The WR lines that store `bytes` in IN, from IN[0] on. -/
def storeLines (bytes : List Byte) : List HostAction :=
  bytes.mapIdx fun i x => lineWr (inOffset i) (x.setWidth 32)

theorem loadIn_eq (b : List Byte) :
    loadIn b = storeLines (b.take 24) ++ [lineWr offInLen (BitVec.ofNat 32 b.length)] := rfl

theorem storeLines_concat (bytes : List Byte) (x : Byte) :
    storeLines (bytes ++ [x]) = storeLines bytes ++ [lineWr (inOffset bytes.length) (x.setWidth 32)] :=
  List.mapIdx_concat

/-- The step of the WR line that stores a byte in IN[i]. -/
theorem step_storeByte {s : State} {i : Nat} {x : Byte} {rest : List HostAction} (idle : s.phase = .idle) (hi : i < 24)
    (h : s.program = lineWr (inOffset i) (x.setWidth 32) :: rest) :
    step s = .next { s with inBuf := s.inBuf.set i x, program := rest } := by
  have low_byte : (x.setWidth 32).setWidth 8 = x := by simp
  rw [step_lineWr_idle idle (legalAccess_inOffset hi) h,
    memWrite_inOffset_idle (s := { s with program := rest }) idle ⟨i, hi⟩, low_byte]

/-- A byte put at the end of a list stands at no other index. -/
theorem getElem?_concat_of_ne {bytes : List Byte} {x : Byte} {i : Nat} (h : i ≠ bytes.length) :
    (bytes ++ [x])[i]? = bytes[i]? := by
  obtain before | after := Nat.lt_or_gt_of_ne h
  · exact List.getElem?_append_left before
  · rw [List.getElem?_eq_none after.le, List.getElem?_eq_none]
    simpa using Nat.succ_le_of_lt after

/-- Bytes stored one after the other: IN[i] is byte i where there is one, and as before where there is none. -/
theorem stepN_storeLines (bytes : List Byte) {s : State} {rest : List HostAction} (idle : s.phase = .idle)
    (fits : bytes.length ≤ 24) (h : s.program = storeLines bytes ++ rest) :
    ∃ buf : Vector Byte 24, stepN bytes.length s = .next { s with inBuf := buf, program := rest } ∧
      ∀ i : Fin 24, buf[i.val] = (bytes[i.val]?).getD s.inBuf[i.val] := by
  induction bytes using List.reverseRecOn generalizing rest with
  | nil => exact ⟨s.inBuf, by rw [← show s.program = rest from h]; rfl, fun _ => rfl⟩
  | append_singleton bytes x ih =>
    rw [List.length_append, List.length_singleton] at fits ⊢
    rw [storeLines_concat, List.append_assoc, List.singleton_append] at h
    obtain ⟨buf, hrun, hbuf⟩ := ih (by omega) h
    refine ⟨buf.set bytes.length x, stepN_concat hrun (step_storeByte ?idle fits rfl), fun i => ?_⟩
    case idle => exact idle
    by_cases hi : i.val = bytes.length
    · simp [hi]
    · rw [Vector.getElem_set_ne _ _ (Ne.symm hi), hbuf, getElem?_concat_of_ne hi]

theorem memWrite_offInLen_idle {s : State} (idle : s.phase = .idle) (v : Word) :
    memWrite offInLen v s = { s with inLen := v } :=
  whenIdle_idle idle _

/-- The step of the WR line that sets IN_LEN. -/
theorem step_writeInLen {s : State} {v : Word} {rest : List HostAction} (idle : s.phase = .idle)
    (h : s.program = lineWr offInLen v :: rest) : step s = .next { s with inLen := v, program := rest } := by
  rw [step_lineWr_idle idle rfl h, memWrite_offInLen_idle (s := { s with program := rest }) idle]

/-- Settles O47: the first 24 bytes stored by `stepN_storeLines`, then the length. -/
theorem loadInFillsTheInputBuffer : Obligations.LoadInFillsTheInputBuffer := by
  intro s b rest idle program _
  rw [loadIn_eq, List.append_assoc, List.singleton_append] at program
  obtain ⟨buf, hrun, hbuf⟩ := stepN_storeLines (b.take 24) idle (List.length_take_le 24 b) program
  refine ⟨buf, ?_, fun i => ?_⟩
  · rw [Nat.min_comm, ← List.length_take]
    exact stepN_concat hrun (step_writeInLen idle rfl)
  · rw [hbuf, List.getElem?_take_of_lt i.isLt]

theorem readOut_succ (n r : Nat) : readOut (n + 1) r = readOut n r ++ [lineRd (outOffset n) (.elem r n)] := by
  simp [readOut, List.range_succ]

/-- R90: what READ_OUT n -> r binds, in the order of its lines. -/
def outNamed (out : Vector Byte 24) (n r : Nat) : List (HostName × Word) :=
  (out.toList.take n).mapIdx fun i x => (HostName.elem r i, BitVec.setWidth 32 x)

theorem outNamed_succ (out : Vector Byte 24) {n : Nat} (hn : n < 24) (r : Nat) :
    outNamed out (n + 1) r = outNamed out n r ++ [(.elem r n, out[n].setWidth 32)] := by
  have taken : out.toList.take (n + 1) = out.toList.take n ++ [out[n]] := by
    rw [List.take_succ_eq_append_getElem (by simpa using hn), Vector.getElem_toList]
  rw [outNamed, taken, List.mapIdx_concat, List.length_take, Vector.length_toList, Nat.min_eq_left hn.le]
  rfl

/-- The step of the RD line that reads OUT[i]. -/
theorem step_readByte {s : State} {i : Nat} {name : HostName} {rest : List HostAction} (idle : s.phase = .idle)
    (hi : i < 24) (h : s.program = lineRd (outOffset i) name :: rest) :
    step s = .next { s with program := rest, reads := (name, s.outBuf[i].setWidth 32) :: s.reads } := by
  rw [step_lineRd_idle idle (legalAccess_outOffset hi) h, regAt_outOffset i hi]
  rfl

/-- READ_OUT line by line: each read binds the next byte and changes nothing else. -/
theorem stepN_readOut {s : State} {n : Nat} (r : Nat) {rest : List HostAction} (idle : s.phase = .idle) (fits : n ≤ 24)
    (h : s.program = readOut n r ++ rest) :
    stepN n s = .next { s with program := rest, reads := (outNamed s.outBuf n r).reverse ++ s.reads } := by
  induction n generalizing rest with
  | zero => rw [← show s.program = rest from h]; rfl
  | succ n ih =>
    rw [readOut_succ, List.append_assoc, List.singleton_append] at h
    rw [outNamed_succ _ fits, List.reverse_concat]
    refine stepN_concat (ih (Nat.le_of_succ_le fits) h) (step_readByte ?idle fits rfl)
    exact idle

/-- Settles O48, by `stepN_readOut`. -/
theorem readOutReadsTheOutputBuffer : Obligations.ReadOutReadsTheOutputBuffer :=
  fun _ _ r _ idle fits program => stepN_readOut r idle fits program

end Sys2Proof.Machine
end

section
/-! PROOFS. The running sum of the rounds and the key Words it selects, and why decipher undoes encipher
(R101 to R111). -/

namespace Sys2Proof.Machine

/-- R41: `rounds` is irreducible, so this equation stands for unfolding it. -/
theorem rounds_eq : rounds = 32 := by rw [rounds]

/-! ### The running sum (R103, R106, R108) -/

/-- R103: `(n × DELTA) mod 2^32`, the sum that `n` encipher rounds reach from 0. -/
def roundSum (n : Nat) : Word := BitVec.ofNat 32 (n * delta.toNat)

theorem roundSum_toNat (n : Nat) : (roundSum n).toNat = n * 0x9E3779B9 % 2 ^ 32 := BitVec.toNat_ofNat _ _

theorem roundSum_add (m n : Nat) : roundSum (m + n) = roundSum m + roundSum n := by
  simp only [roundSum, Nat.add_mul, BitVec.ofNat_add]

theorem roundSum_succ (n : Nat) : roundSum (n + 1) = roundSum n + delta := roundSum_add n 1

theorem roundSum_sub {m n : Nat} (h : m ≤ n) : roundSum n - roundSum m = roundSum (n - m) := by
  obtain ⟨d, rfl⟩ := Nat.exists_eq_add_of_le h
  rw [roundSum_add, Nat.add_sub_cancel_left, add_sub_cancel_left]

/-- R106: DEC_SUM0 is 32 × DELTA modulo 2^32. -/
theorem decSum0_eq_roundSum : decSum0 = roundSum 32 := by decide

theorem encRounds_s (k : Key) (n : Nat) (r : RoundState) : (encRounds k n r).s = r.s + roundSum n := by
  induction n with
  | zero => exact (BitVec.add_zero r.s).symm
  | succ n ih => rw [encRounds_succ_last, encRound_s, ih, roundSum_succ, BitVec.add_assoc]

theorem decRounds_s (k : Key) (n : Nat) (r : RoundState) : (decRounds k n r).s = r.s - roundSum n := by
  induction n with
  | zero => exact (BitVec.sub_zero r.s).symm
  | succ n ih => rw [decRounds_succ_last, decRound_s, ih, roundSum_succ, sub_sub]

/-- R103: the sum at the start of encipher round `n`. -/
theorem encRounds_s_from_zero (k : Key) (n : Nat) (v0 v1 : Word) :
    (encRounds k n { v0 := v0, v1 := v1, s := 0 }).s = roundSum n := by
  rw [encRounds_s]
  exact BitVec.zero_add _

/-- R108: the sum at the start of decipher round `n`. -/
theorem decRounds_s_from_decSum0 (k : Key) {n : Nat} (h : n ≤ 32) (v0 v1 : Word) :
    (decRounds k n { v0 := v0, v1 := v1, s := decSum0 }).s = roundSum (32 - n) := by
  rw [decRounds_s, decSum0_eq_roundSum, roundSum_sub h]

/-- R106: encipher's rounds end at DEC_SUM0. -/
theorem encRounds_last_sum (k : Key) (v0 v1 : Word) :
    (encRounds k 32 { v0 := v0, v1 := v1, s := 0 }).s = decSum0 := by
  rw [encRounds_s_from_zero, decSum0_eq_roundSum]

/-- R103: the sum wraps first in round 1. -/
theorem encRounds_first_wrap (k : Key) (v0 v1 : Word) :
    (encRounds k 2 { v0 := v0, v1 := v1, s := 0 }).s = 0x3C6EF372#32 := by
  rw [encRounds_s_from_zero]
  decide

/-- Settles O7: the numbers, and encipher's last sum. -/
theorem decipherStartsAtEnciphersLastSum : Obligations.DecipherStartsAtEnciphersLastSum :=
  ⟨rfl, rfl, rfl, fun k v0 v1 => (encRounds_last_sum k v0 v1).symm⟩

/-! ### The key Words of each round (R103) -/

/-- Step 2 of round `r` takes key Word `r mod 4`. -/
theorem keyIndex_roundSum (r : Fin 32) :
    keyIndex (roundSum r) =
      (#v[0, 1, 2, 3, 0, 1, 2, 3, 0, 1, 2, 3, 0, 1, 2, 3, 0, 1, 2, 3, 0, 1, 2, 3, 0, 1, 2, 3, 0, 1, 2, 3]
        : Vector (Fin 4) 32).get r := by
  decide +revert

/-- Step 6 of round `r` takes its key Word by the sum after step 3, shifted right by 11. -/
theorem keyIndex_roundSum_succ_shifted (r : Fin 32) :
    keyIndex (roundSum (r + 1) >>> 11) =
      (#v[3, 2, 1, 0, 0, 3, 2, 1, 0, 0, 3, 2, 1, 1, 0, 3, 2, 1, 1, 0, 3, 2, 1, 1, 0, 3, 2, 2, 1, 0, 3, 2]
        : Vector (Fin 4) 32).get r := by
  decide +revert

theorem encRounds_succ_v0 (k : Key) (n : Nat) (r : RoundState) :
    (encRounds k (n + 1) r).v0 = (encRounds k n r).v0 +
      mix (encRounds k n r).v1 (encRounds k n r).s (k.get (keyIndex (encRounds k n r).s)) := by
  rw [encRounds_succ_last, encRound_eq_mix, keyWord]

theorem encRounds_succ_v1 (k : Key) (n : Nat) (r : RoundState) :
    (encRounds k (n + 1) r).v1 = (encRounds k n r).v1 +
      mix (encRounds k (n + 1) r).v0 (encRounds k (n + 1) r).s
        (k.get (keyIndex ((encRounds k (n + 1) r).s >>> 11))) := by
  rw [encRounds_succ_last, encRound_eq_mix, ← keyWord]

/-- Settles O6: the sum is `roundSum` by `encRounds_s_from_zero`, and the two index sequences are its key indices. -/
theorem encipherSumAndKeySchedule : Obligations.EncipherSumAndKeySchedule := by
  refine ⟨fun k v0 v1 r => ⟨?sum, ?step2, ?step6⟩, encRounds_last_sum, by decide, by decide, encRounds_first_wrap⟩
  case sum => rw [encRounds_s_from_zero, roundSum_toNat]
  case step2 => rw [encRounds_succ_v0, encRounds_s_from_zero, keyIndex_roundSum]
  case step6 => rw [encRounds_succ_v1, encRounds_s_from_zero, keyIndex_roundSum_succ_shifted]

/-! ### Inverses (R108, R109) -/

/-- R108: `j` decipher rounds undo the last `j` of `n + j` encipher rounds. -/
theorem decRounds_encRounds_add (k : Key) (n j : Nat) (r : RoundState) :
    decRounds k j (encRounds k (n + j) r) = encRounds k n r := by
  induction j with
  | zero => rfl
  | succ j ih =>
    rw [← Nat.add_assoc, encRounds_succ_last, decRounds, decRound_encRound, ih]

theorem decRounds_encRounds (k : Key) (n : Nat) (r : RoundState) : decRounds k n (encRounds k n r) = r := by
  have undone := decRounds_encRounds_add k 0 n r
  rwa [Nat.zero_add, encRounds] at undone

theorem encRounds_decRounds (k : Key) (n : Nat) (r : RoundState) : encRounds k n (decRounds k n r) = r := by
  induction n with
  | zero => rfl
  | succ n ih =>
    rw [decRounds_succ_last, encRounds, encRound_decRound, ih]

/-- Settles O8: decipher is 32 rounds by definition, its rounds undo encipher's by `decRounds_encRounds_add`, and the
sum is `decRounds_s_from_decSum0`. -/
theorem decipherRetracesEncipher : Obligations.DecipherRetracesEncipher := by
  refine ⟨fun k v0 v1 => ?rounds, fun k v0 v1 j hj => ?retrace, fun k v0 v1 j hj => ?sum⟩
  case rounds => rw [decipher, rounds_eq, decSum0]
  case retrace =>
    have undone := decRounds_encRounds_add k (32 - j) j { v0 := v0, v1 := v1, s := 0 }
    rwa [Nat.sub_add_cancel hj] at undone
  case sum =>
    rw [← decSum0, decRounds_s_from_decSum0 k hj, roundSum_toNat]

/-- R102: encipher's result, with the sum DEC_SUM0, is the state after its rounds. -/
theorem encipher_end (k : Key) (v0 v1 : Word) :
    { v0 := (encipher v0 v1 k).1, v1 := (encipher v0 v1 k).2, s := decSum0 } =
      encRounds k rounds { v0 := v0, v1 := v1, s := 0 } := by
  have ends_at_decSum0 : (encRounds k rounds { v0 := v0, v1 := v1, s := 0 }).s = decSum0 := by
    rw [rounds_eq, encRounds_last_sum]
  rw [← ends_at_decSum0, encipher]

/-- R108: decipher's result, with the sum 0, is the state after its rounds. -/
theorem decipher_end (k : Key) (v0 v1 : Word) :
    { v0 := (decipher v0 v1 k).1, v1 := (decipher v0 v1 k).2, s := 0 } =
      decRounds k rounds { v0 := v0, v1 := v1, s := decSum0 } := by
  have ends_at_zero : (decRounds k rounds { v0 := v0, v1 := v1, s := decSum0 }).s = 0 := by
    rw [decRounds_s_from_decSum0 k rounds_eq.le, rounds_eq]
    rfl
  rw [← ends_at_zero, decipher]

theorem decipher_encipher (k : Key) (v0 v1 : Word) :
    decipher (encipher v0 v1 k).1 (encipher v0 v1 k).2 k = (v0, v1) := by
  rw [decipher, encipher_end, decRounds_encRounds]

theorem encipher_decipher (k : Key) (v0 v1 : Word) :
    encipher (decipher v0 v1 k).1 (decipher v0 v1 k).2 k = (v0, v1) := by
  rw [encipher, decipher_end, encRounds_decRounds]

/-- Settles O9: each run ends at the sum the other starts from, so the rounds cancel. -/
theorem encipherDecipherInverse : Obligations.EncipherDecipherInverse :=
  fun v0 v1 k => ⟨decipher_encipher k v0 v1, encipher_decipher k v0 v1⟩

/-! ### The commands ENCIPHER and DECIPHER (R110, R111) -/

/-- R110, R111: what a raw command writes: the Block `r` in V0 and V1, and a success in STATUS and PHASE. -/
def rawSuccess (r : Word × Word) (s : State) : State := succeed { s with v0 := r.1, v1 := r.2 }

@[simp] theorem rawSuccess_v0 (r : Word × Word) (s : State) : (rawSuccess r s).v0 = r.1 := rfl

@[simp] theorem rawSuccess_v1 (r : Word × Word) (s : State) : (rawSuccess r s).v1 = r.2 := rfl

theorem exec_encipher (s : State) : exec .encipher s = .next (rawSuccess (encipher s.v0 s.v1 keyWords) s) := rfl

theorem exec_decipher (s : State) : exec .decipher s = .next (rawSuccess (decipher s.v0 s.v1 keyWords) s) := rfl

/-- R143: KEYW as the spec prints it. -/
theorem keyWords_eq : keyWords = #v[0x716F7274#32, 0x6D64646B#32, 0x716F7274#32, 0x6D64636B#32] := by
  obtain ⟨-, -, words, -⟩ := keyExpansion
  exact words

/-- R110: the rule's example. -/
theorem encipher_zero : encipher 0 0 keyWords = (0xE8B10C1F#32, 0x8BC3595B#32) := by decide +kernel

/-- Settles O15: `exec_encipher` with KEYW written out, and the example. -/
theorem encipherCommand : Obligations.EncipherCommand := by
  refine ⟨fun s => ?_, encipher_zero⟩
  rw [exec_encipher, ← keyWords_eq]
  rfl

/-- Settles O16: `exec_decipher` with KEYW written out, the two restore laws by R109, and the examples, the second by
undoing ENCIPHER's. -/
theorem decipherCommand : Obligations.DecipherCommand := by
  refine ⟨fun s => ?state, fun s => ⟨_, _, exec_encipher s, exec_decipher _, ?enc_dec⟩,
    fun s => ⟨_, _, exec_decipher s, exec_encipher _, ?dec_enc⟩, ?zero, ?undo⟩
  case state =>
    rw [exec_decipher, ← keyWords_eq]
    rfl
  case enc_dec => simp [decipher_encipher]
  case dec_enc => simp [encipher_decipher]
  case zero => decide +kernel
  case undo => simpa only [encipher_zero] using decipher_encipher keyWords 0 0

end Sys2Proof.Machine
end

section
/-! PROOFS. The byte-order codec as numbers, its round trips, the framed functions on byte strings, and the commands
ENCODE and DECODE (R140 to R151). -/

namespace Sys2Proof.Machine

/-! ### Words and bytes (R140 to R142) -/

/-- R140: the four bytes stand side by side in the Word, bit by bit. -/
theorem be32_eq_append (b : Vector Byte 4) : be32 b = b[0] ++ b[1] ++ b[2] ++ b[3] := by
  ext i hi
  simp only [be32, BitVec.getElem_or, BitVec.getElem_shiftLeft]
  grind

theorem append_byte_toNat {n : Nat} (x : BitVec n) (y : Byte) : (x ++ y).toNat = x.toNat * 2 ^ 8 + y.toNat := by
  rw [BitVec.toNat_append, ← Nat.shiftLeft_add_eq_or_of_lt y.isLt, Nat.shiftLeft_eq]

/-- R140: the big-endian number. -/
theorem be32_toNat (b : Vector Byte 4) :
    (be32 b).toNat = b[0].toNat * 2 ^ 24 + b[1].toNat * 2 ^ 16 + b[2].toNat * 2 ^ 8 + b[3].toNat := by
  simp only [be32_eq_append, append_byte_toNat]
  omega

/-- R142: the little-endian Word is the big-endian Word of the bytes in reverse. -/
theorem le32_eq_be32_reverse (b : Vector Byte 4) : le32 b = be32 b.reverse := by
  simp [le32, be32, BitVec.or_comm, BitVec.or_assoc]

/-- R142: the little-endian number. -/
theorem le32_toNat (b : Vector Byte 4) :
    (le32 b).toNat = b[0].toNat + b[1].toNat * 2 ^ 8 + b[2].toNat * 2 ^ 16 + b[3].toNat * 2 ^ 24 := by
  rw [le32_eq_be32_reverse, be32_toNat]
  simp only [Vector.getElem_reverse, Nat.add_one_sub_one, Nat.sub_zero, Nat.reduceSub]
  omega

/-- R141: byte `i` counts from the most significant end. -/
theorem bytesBe_getElem_toNat (w : Word) (i : Nat) (hi : i < 4) :
    (bytesBe w)[i].toNat = w.toNat / 2 ^ (24 - 8 * i) % 256 := by
  have byte (n : Nat) : (w.extractLsb' n 8).toNat = w.toNat / 2 ^ n % 256 := by
    rw [BitVec.extractLsb'_toNat, Nat.shiftRight_eq_div_pow]
  interval_cases i
  · exact byte 24
  · exact byte 16
  · exact byte 8
  · exact byte 0

theorem be32_bytesBe (w : Word) : be32 (bytesBe w) = w := by
  apply BitVec.eq_of_toNat_eq
  rw [be32_toNat]
  simp only [bytesBe_getElem_toNat]
  omega

theorem bytesBe_be32 (b : Vector Byte 4) : bytesBe (be32 b) = b := by
  refine Vector.ext fun i hi => BitVec.eq_of_toNat_eq ?_
  rw [bytesBe_getElem_toNat, be32_toNat]
  interval_cases i <;> omega

/-- Settles O10: the numbers of `be32_toNat`, `le32_toNat` and `bytesBe_getElem_toNat`, from which the two
round trips follow. -/
theorem byteOrderCodec : Obligations.ByteOrderCodec := by
  refine ⟨be32_toNat, le32_toNat, fun w => ⟨?first, ?second, ?third, ?fourth⟩, be32_bytesBe, bytesBe_be32⟩
  case first =>
    rw [bytesBe_getElem_toNat]
    omega
  case second => exact bytesBe_getElem_toNat w 1 (by omega)
  case third => exact bytesBe_getElem_toNat w 2 (by omega)
  case fourth =>
    rw [bytesBe_getElem_toNat]
    omega

/-! ### Blocks (R144) -/

/-- R144: the Block at the head of a buffer, byte by byte. -/
theorem block_slice_head (b : Vector Byte 24) :
    block (slice b 0 8) = (be32 #v[b[0], b[1], b[2], b[3]], be32 #v[b[4], b[5], b[6], b[7]]) := rfl

theorem slice_unblock_first (v0 v1 : Word) : slice (unblock v0 v1) 0 4 = bytesBe v0 := by
  refine Vector.ext fun i hi => ?_
  simp [unblock_getElem, hi]

theorem slice_unblock_second (v0 v1 : Word) : slice (unblock v0 v1) 4 4 = bytesBe v1 := by
  refine Vector.ext fun i hi => ?_
  simp [unblock_getElem]

/-- Parsing undoes serialising. -/
theorem block_unblock (v0 v1 : Word) : block (unblock v0 v1) = (v0, v1) := by
  rw [block, slice_unblock_first, slice_unblock_second, be32_bytesBe, be32_bytesBe]

/-- Serialising undoes parsing. -/
theorem unblock_block (b : Vector Byte 8) : unblock (block b).1 (block b).2 = b := by
  refine Vector.ext fun i hi => ?_
  rw [unblock_getElem, block]
  simp only [bytesBe_be32, slice_getElem]
  split
  · congr 1
    omega
  · congr 1
    omega

/-! ### encode and decode on strings of the right length (R145, R146) -/

/-- R145: the eight bytes that encode puts before the suffix. -/
def encipheredBytes (k : Key) (p : Vector Byte 8) : Vector Byte 8 :=
  unblock (encipher (block p).1 (block p).2 k).1 (encipher (block p).1 (block p).2 k).2

/-- R146: the eight bytes that decode gives for the first eight of its input. -/
def decipheredBytes (k : Key) (c : Vector Byte 8) : Vector Byte 8 :=
  unblock (decipher (block c).1 (block c).2 k).1 (decipher (block c).1 (block c).2 k).2

/-- R149: parsing undoes serialising, and decipher undoes encipher (R109). -/
theorem decipheredBytes_encipheredBytes (k : Key) (p : Vector Byte 8) :
    decipheredBytes k (encipheredBytes k p) = p := by
  rw [decipheredBytes, encipheredBytes, block_unblock, decipher_encipher, unblock_block]

/-- A string of `n` bytes is the list of a vector. -/
theorem exists_vector_of_length {n : Nat} {b : List Byte} (length : b.length = n) :
    ∃ v : Vector Byte n, b = v.toList :=
  ⟨⟨b.toArray, length⟩, rfl⟩

theorem encodeBytes_eq (k : Key) (sfx : Vector Byte 16) (p : Vector Byte 8) :
    encodeBytes k sfx p.toList = .ok (join24 (encipheredBytes k p) sfx).toList := by
  rw [join24_toList]
  exact dif_pos p.length_toList

theorem encodeBytes_invalidLength (k : Key) (sfx : Vector Byte 16) {p : List Byte} (length : p.length ≠ 8) :
    encodeBytes k sfx p = .error .invalidLength :=
  dif_neg length

/-- R145: only an eight-byte string has an encoding. -/
theorem exists_of_encodeBytes_ok {k : Key} {sfx : Vector Byte 16} {p c : List Byte}
    (encoded : encodeBytes k sfx p = .ok c) :
    ∃ v : Vector Byte 8, p = v.toList ∧ c = (join24 (encipheredBytes k v) sfx).toList := by
  by_cases length : p.length = 8
  · obtain ⟨v, rfl⟩ := exists_vector_of_length length
    exact ⟨v, rfl, Except.ok.inj (encoded.symm.trans (encodeBytes_eq k sfx v))⟩
  · exact nomatch (encodeBytes_invalidLength k sfx length).symm.trans encoded

theorem decodeBytes_success (k : Key) {sfx : Vector Byte 16} {c : Vector Byte 24} (tail : slice c 8 16 = sfx) :
    decodeBytes k sfx c.toList = .ok (decipheredBytes k (slice c 0 8)).toList :=
  (dif_pos c.length_toList).trans (if_pos tail)

theorem decodeBytes_formatMismatch (k : Key) {sfx : Vector Byte 16} {c : Vector Byte 24} (tail : slice c 8 16 ≠ sfx) :
    decodeBytes k sfx c.toList = .error .formatMismatch :=
  (dif_pos c.length_toList).trans (if_neg tail)

theorem decodeBytes_invalidLength (k : Key) (sfx : Vector Byte 16) {c : List Byte} (length : c.length ≠ 24) :
    decodeBytes k sfx c = .error .invalidLength :=
  dif_neg length

theorem slice_head_toList (b : Vector Byte 24) : (slice b 0 8).toList = b.toList.take 8 := slice_toList b 0 8 _

theorem slice_tail_toList (b : Vector Byte 24) : (slice b 8 16).toList = b.toList.drop 8 := by
  rw [slice_toList, List.take_of_length_le]
  simp

/-- R146: the suffix test on the buffer and on the string. -/
theorem slice_tail_eq_iff (b : Vector Byte 24) (sfx : Vector Byte 16) :
    slice b 8 16 = sfx ↔ b.toList.drop 8 = sfx.toList := by
  rw [← slice_tail_toList, Vector.toList_inj]

/-- Settles O12: a string of the right length is a vector, on which the functions are known; any other length is
refused first. -/
theorem lengthContracts : Obligations.LengthContracts := by
  intro k sfx b
  refine ⟨fun length => ?encode, encodeBytes_invalidLength k sfx, fun length tail => ?decode,
    fun length tail => ?mismatch, decodeBytes_invalidLength k sfx⟩
  case encode =>
    obtain ⟨p, rfl⟩ := exists_vector_of_length length
    exact ⟨_, encodeBytes_eq k sfx p, Vector.length_toList⟩
  case decode =>
    obtain ⟨c, rfl⟩ := exists_vector_of_length length
    exact ⟨_, decodeBytes_success k ((slice_tail_eq_iff c sfx).2 tail), Vector.length_toList⟩
  case mismatch =>
    obtain ⟨c, rfl⟩ := exists_vector_of_length length
    exact decodeBytes_formatMismatch k (mt (slice_tail_eq_iff c sfx).1 tail)

/-! ### The round trip (R149, R150) -/

/-- R149: decode undoes encode, for every key and suffix. -/
theorem decodeBytes_of_encodeBytes {k : Key} {sfx : Vector Byte 16} {p c : List Byte}
    (encoded : encodeBytes k sfx p = .ok c) : decodeBytes k sfx c = .ok p := by
  obtain ⟨v, rfl, rfl⟩ := exists_of_encodeBytes_ok encoded
  rw [decodeBytes_success k (slice_join24_tail _ _), slice_join24_head, decipheredBytes_encipheredBytes]

/-- R149: DECODE of an output that ends with SUFFIX, copied to IN with its length, succeeds. -/
theorem exec_decode_of_output {t : State} (tail : slice t.outBuf 8 16 = suffix) :
    exec .decode { t with inBuf := t.outBuf, inLen := 24 } =
      .next (framedSuccess (decipheredBlock (slice t.outBuf 0 8)) (slice t.outBuf 8 16) 8
        { t with inBuf := t.outBuf, inLen := 24 }) :=
  exec_decode_success rfl tail

/-- R147: the OUT[0..7] of ENCODE are encode's bytes. -/
theorem unblock_encipheredBlock (p : Vector Byte 8) :
    unblock (encipheredBlock p).1 (encipheredBlock p).2 = encipheredBytes keyWords p := rfl

/-- R148: the OUT[0..7] of DECODE are decode's bytes. -/
theorem unblock_decipheredBlock (c : Vector Byte 8) :
    unblock (decipheredBlock c).1 (decipheredBlock c).2 = decipheredBytes keyWords c := rfl

/-- Settles O13: `decodeBytes_of_encodeBytes` on strings; at the registers OUT is encode's result, so it passes the
suffix test and its first eight bytes are deciphered to those of IN. -/
theorem credentialRoundTrip : Obligations.CredentialRoundTrip := by
  refine ⟨fun k sfx p length => ?functions, fun s length => ?registers⟩
  case functions =>
    obtain ⟨p, rfl⟩ := exists_vector_of_length length
    have encoded := encodeBytes_eq k sfx p
    exact ⟨_, encoded, decodeBytes_of_encodeBytes encoded⟩
  case registers =>
    refine ⟨_, _, exec_encode_success length, rfl, exec_decode_of_output (slice_join24_tail _ _), rfl, ?_⟩
    simp only [framedSuccess_outBuf, slice_join24_head, unblock_decipheredBlock, unblock_encipheredBlock,
      decipheredBytes_encipheredBytes]

/-- R86, R147: an ENCODE that ends with DONE set found IN_LEN = 8. -/
theorem inLen_of_encode_done {s t : State} (hexec : exec .encode s = .next t) (done : t.status.done = true) :
    s.inLen = 8 := by
  by_contra length
  obtain rfl := Host.Outcome.next.inj ((exec_encode_invalidLength length).symm.trans hexec)
  exact Bool.false_ne_true done

/-- Settles O14: only an 8-byte string has an encoding, and only IN_LEN = 8 a successful ENCODE; both results are joins
with the suffix as the tail. -/
theorem encodedEndsWithSuffix : Obligations.EncodedEndsWithSuffix := by
  refine ⟨fun k sfx p c encoded => ?functions, fun s t hexec done => ?registers⟩
  case functions =>
    obtain ⟨_, -, rfl⟩ := exists_of_encodeBytes_ok encoded
    exact (slice_tail_eq_iff _ sfx).1 (slice_join24_tail _ _)
  case registers =>
    obtain rfl := Host.Outcome.next.inj ((exec_encode_success (inLen_of_encode_done hexec done)).symm.trans hexec)
    have tail := slice_join24_tail (encipheredBytes keyWords (slice s.inBuf 0 8)) suffix
    exact ⟨tail, _, exec_decode_of_output tail, rfl⟩

/-! ### The commands ENCODE and DECODE (R147, R148) -/

theorem encipheredBlock_slice_head (b : Vector Byte 24) :
    encipheredBlock (slice b 0 8) =
      encipher (be32 #v[b[0], b[1], b[2], b[3]]) (be32 #v[b[4], b[5], b[6], b[7]]) keyWords := by
  rw [encipheredBlock, block_slice_head]

theorem decipheredBlock_slice_head (b : Vector Byte 24) :
    decipheredBlock (slice b 0 8) =
      decipher (be32 #v[b[0], b[1], b[2], b[3]]) (be32 #v[b[4], b[5], b[6], b[7]]) keyWords := by
  rw [decipheredBlock, block_slice_head]

/-- R147: the rule's example. -/
theorem encodeBytes_example :
    encodeBytes keyWords suffix [0x31#8, 0x32#8, 0x33#8, 0x34#8, 0x35#8, 0x36#8, 0x37#8, 0x38#8] =
      .ok ([0xC3#8, 0x66#8, 0x7D#8, 0xDF#8, 0x98#8, 0x01#8, 0x94#8, 0xE4#8] ++ suffix.toList) := by
  decide +kernel

/-- Settles O17: the completion with IN_LEN = 8 and with another, with the Block of IN[0:8] written out. -/
theorem encodeCommand : Obligations.EncodeCommand := by
  refine ⟨fun s length => ⟨join24 (encipheredBytes keyWords (slice s.inBuf 0 8)) suffix, ?_⟩,
    fun s => exec_encode_invalidLength, encodeBytes_example⟩
  rw [← encipheredBlock_slice_head]
  refine ⟨exec_encode_success length, ?out, ?function⟩
  case out => rw [join24_toList, ← unblock_encipheredBlock, unblock_toList]
  case function => rw [← slice_head_toList, encodeBytes_eq]

/-- Settles O18: the three completions, with the suffix test on the bytes of IN and the Block of IN[0:8] written out;
the example undoes ENCODE's. -/
theorem decodeCommand : Obligations.DecodeCommand := by
  refine ⟨fun s length tail =>
      ⟨join24 (decipheredBytes keyWords (slice s.inBuf 0 8)) (slice s.outBuf 8 16), ?success⟩,
    fun s length tail => ?mismatch, fun s => exec_decode_invalidLength, ?undo⟩
  case success =>
    have tail := (slice_tail_eq_iff s.inBuf suffix).2 tail
    rw [← decipheredBlock_slice_head]
    refine ⟨exec_decode_success length tail, ?out, ?function⟩
    case out => rw [join24_toList, ← unblock_decipheredBlock, unblock_toList, slice_tail_toList]
    case function => rw [← slice_head_toList, slice_join24_head, decodeBytes_success keyWords tail]
  case mismatch => exact exec_decode_formatMismatch length (mt (slice_tail_eq_iff s.inBuf suffix).1 tail)
  case undo => exact decodeBytes_of_encodeBytes encodeBytes_example

end Sys2Proof.Machine
end

section
/-! PROOFS. Error completions, illegal words, busy writes, and the race of a write with a completion (R203 to R206,
R208). -/

namespace Sys2Proof.Machine

/-! ### Error completions (R203, R205, R206) -/

/-- R53, R205: the word of STATUS after an error completion. -/
theorem Status.failed_toWord (e : ErrorKind) (st : Status) :
    (st.failed e).toWord = (if st.wbusy then 0x104#32 else 0x004#32) ||| e.code.bits <<< 4 := by
  change Status.toWord ⟨false, false, true, e.code, st.wbusy⟩ = _
  generalize st.wbusy = wbusy
  cases e <;> cases wbusy <;> decide

/-- R205: apart from WBUSY the word of STATUS after an error completion is ERR and the code. -/
theorem Status.failed_toWord_and (e : ErrorKind) (st : Status) :
    (st.failed e).toWord &&& 0x7F#32 = 0x004#32 ||| e.code.bits <<< 4 := by
  rw [Status.failed_toWord]
  cases e <;> cases st.wbusy <;> rfl

/-- R206: a command that ends with ERR = 1 ended by an error completion. -/
theorem exec_eq_raiseError_of_err {op : Instr} {s t : State} (h : exec op s = .next t) (err : t.status.err = true) :
    ∃ e, t = raiseError e s := by
  obtain ⟨_, _, _, _, -, rfl⟩ | ⟨e, -, -, ht⟩ := exec_cases h
  · cases err
  · exact ⟨e, ht⟩

/-- Settles O21: both ways an error is recorded are `raiseError`, which writes STATUS and PHASE alone. -/
theorem errorsWriteNoResult : Obligations.ErrorsWriteNoResult := by
  refine ⟨fun op s t hexec err => ?command, fun w s illegal => ?word⟩
  case command =>
    obtain ⟨e, rfl⟩ := exec_eq_raiseError_of_err hexec err
    exact ⟨rfl, rfl, rfl, rfl⟩
  case word =>
    rw [issue_of_illegal illegal]
    exact ⟨rfl, rfl, rfl, rfl⟩

/-- Settles O20: `raiseError` field by field, its STATUS words, and an illegal word answered by it. -/
theorem errorCompletion : Obligations.ErrorCompletion := by
  refine ⟨fun _ _ => rfl, fun s => ?words, fun w s idle not_busy illegal => ?illegalWord⟩
  case words =>
    exact ⟨s.status.failed_toWord_and .invalidLength, s.status.failed_toWord_and .formatMismatch,
      s.status.failed_toWord_and .illegalCommand⟩
  case illegalWord =>
    rw [issue_of_illegal illegal, idle, not_busy]
    exact ⟨rfl, rfl⟩

/-- R203: while IDLE the step of a CMD write issues the word. -/
theorem step_issue {s : State} {w : Word} {rest : List HostAction} (idle : s.phase = .idle)
    (h : s.program = lineWr offCmd w :: rest) : step s = .next (issue w { s with program := rest }) := by
  rw [step_lineWr_idle idle rfl h, memWrite_offCmd_idle (s := { s with program := rest }) idle]

/-- Settles O31: the step issues the word, which raises IllegalCommand; STATUS is then read as `failed_toWord` says. -/
theorem illegalWordSeenAtOnce : Obligations.IllegalWordSeenAtOnce := by
  intro s w rest idle program h1 h2 h3 h4
  have illegal := (decode_error_iff w).2 ⟨h1, h2, h3, h4⟩
  refine ⟨raiseError .illegalCommand { s with program := rest }, ?step, rfl, ?word, ?frame⟩
  case step => rw [step_issue idle program, issue_of_illegal illegal]
  case word =>
    refine (s.status.failed_toWord .illegalCommand).trans ?_
    cases s.status.wbusy <;> rfl
  case frame => rw [raiseError, idle]

/-! ### Busy writes (R204) -/

/-- R204: a completion commutes with the busy-write event, since no test of it looks at STATUS. -/
theorem exec_busyWrite (op : Instr) (s : State) :
    ∃ t, exec op s = .next t ∧ exec op (busyWrite s) = .next (busyWrite t) := by
  cases op with
  | encode =>
    by_cases length : s.inLen = 8
    · exact ⟨_, exec_encode_success length, exec_encode_success (s := busyWrite s) length⟩
    · exact ⟨_, exec_encode_invalidLength length, exec_encode_invalidLength (s := busyWrite s) length⟩
  | decode =>
    by_cases length : s.inLen = 24
    · by_cases tail : slice s.inBuf 8 16 = suffix
      · exact ⟨_, exec_decode_success length tail, exec_decode_success (s := busyWrite s) length tail⟩
      · exact ⟨_, exec_decode_formatMismatch length tail, exec_decode_formatMismatch (s := busyWrite s) length tail⟩
    · exact ⟨_, exec_decode_invalidLength length, exec_decode_invalidLength (s := busyWrite s) length⟩
  | encipher => exact ⟨_, exec_encipher s, exec_encipher (busyWrite s)⟩
  | decipher => exact ⟨_, exec_decipher s, exec_decipher (busyWrite s)⟩

/-- Settles O32: the write is the busy-write event, which the completion commutes with. -/
theorem busyWriteIsDropped : Obligations.BusyWriteIsDropped := by
  intro s op off v busy writable
  have dropped : memWrite off v s = busyWrite s := memWrite_busyWrite busy writable v
  rw [dropped]
  refine ⟨rfl, fun t hexec => ?_⟩
  obtain ⟨u, hexec', hafter⟩ := exec_busyWrite op s
  obtain rfl : u = t := Host.Outcome.next.inj (hexec'.symm.trans hexec)
  exact hafter

/-! ### The race of a write with a completion (R208, R239) -/

/-- A legal WR line at the head of HOST's program, while a command is in flight and it is HOST's turn. -/
theorem step_lineWr_busy {s : State} {op : Instr} {off : Nat} {v : Word} {rest : List HostAction}
    (busy : s.phase = .busy op) (turn : 0 < s.delay) (legal : legalAccess off 4 = true)
    (h : s.program = lineWr off v :: rest) :
    step s = .next (memWrite off v { countDown s with program := rest }) := by
  rw [step_busy_host busy turn h]
  exact withAccess_legal legal _

theorem memWrite_offV0_idle {s : State} (idle : s.phase = .idle) (x : Word) :
    memWrite offV0 x s = { s with v0 := x } :=
  whenIdle_idle idle _

theorem memWrite_offV0_busy {s : State} {op : Instr} (busy : s.phase = .busy op) (x : Word) :
    memWrite offV0 x s = busyWrite s :=
  whenIdle_busy busy _

/-- HOST has ENCIPHER to issue and then V0 to write, and the latency of the command is given. -/
def racing (s : State) (x : Word) (latency : Nat) : State :=
  { s with program := [lineWr offCmd (encode .encipher), lineWr offV0 x], givenLatencies := [latency] }

/-- The race after the issue of ENCIPHER. -/
def racingIssued (s : State) (x : Word) (latency : Nat) : State :=
  accept .encipher { racing s x latency with program := [lineWr offV0 x] }

theorem step_racing {s : State} (idle : s.phase = .idle) (x : Word) (latency : Nat) :
    step (racing s x latency) = .next (racingIssued s x latency) := by
  rw [step_issue (s := racing s x latency) idle rfl, issue_of_decode (decode_encode .encipher)]
  rfl

/-- Latency 0: the completion comes first and V0 is written in its next state. -/
theorem stepN_racing_zero {s : State} (idle : s.phase = .idle) (x : Word) :
    stepN 3 (racing s x 0) = .next
      { rawSuccess (encipher s.v0 s.v1 keyWords) (racingIssued s x 0) with program := [], v0 := x } := by
  have completion : step (racingIssued s x 0) =
      .next (rawSuccess (encipher s.v0 s.v1 keyWords) (racingIssued s x 0)) :=
    (step_engine rfl rfl).trans (exec_encipher _)
  have write := step_lineWr_idle (s := rawSuccess (encipher s.v0 s.v1 keyWords) (racingIssued s x 0)) (v := x)
    (off := offV0) rfl rfl rfl
  rw [memWrite_offV0_idle rfl] at write
  exact stepN_concat (stepN_concat (stepN_succ (step_racing idle x 0) 0) completion) write

/-- Latency 1: the write comes first and is dropped, and the completion is that of the registers as issued. -/
theorem stepN_racing_one {s : State} (idle : s.phase = .idle) (x : Word) :
    stepN 3 (racing s x 1) = .next
      (rawSuccess (encipher s.v0 s.v1 keyWords) (busyWrite { countDown (racingIssued s x 1) with program := [] })) := by
  have write := step_lineWr_busy (s := racingIssued s x 1) (v := x) (off := offV0) rfl Nat.one_pos rfl rfl
  rw [memWrite_offV0_busy rfl] at write
  exact stepN_concat (stepN_concat (stepN_succ (step_racing idle x 1) 0) write)
    ((step_engine rfl rfl).trans (exec_encipher _))

/-- Settles O42: the two runs of the race, each read at its last state. -/
theorem writeRaceHasBothOutcomes : Obligations.WriteRaceHasBothOutcomes := by
  intro s x idle
  exact ⟨⟨_, stepN_racing_zero idle x, rfl, rfl, rfl, rfl⟩, ⟨_, stepN_racing_one idle x, rfl, rfl, rfl, rfl⟩⟩

end Sys2Proof.Machine
end

section
/-! PROOFS. A command in flight completes, what a reset does to the machine, and the invariants right after reset
(R230, R231, R238, R239). -/

namespace Sys2Proof.Machine

/-! ### Completion is certain (R238, R239) -/

/-- R64: an action of HOST on a BUSY block leaves the command in flight and its latency, or (a reset) the block IDLE. -/
theorem HostEffect.idle_or_in_flight {a : HostAction} {s t : State} {op : Instr} (h : HostEffect a s t)
    (busy : s.phase = .busy op) : t.phase = .idle ∨ (t.phase = .busy op ∧ t.delay = s.delay) := by
  cases h with
  | reset | illegal => exact .inl rfl
  | accepted w op' line idle word => exact absurd (busy.symm.trans idle) Phase.noConfusion
  | other | inLen | inByte => exact .inr ⟨busy, rfl⟩

/-- R85, R231: a step while BUSY leaves the block IDLE, or the command in flight with 1 less of its latency left. -/
theorem step_idle_or_in_flight {s t : State} {op : Instr} (busy : s.phase = .busy op) (h : step s = .next t) :
    t.phase = .idle ∨ (t.phase = .busy op ∧ t.delay + 1 = s.delay) := by
  obtain ⟨op', -, hexec⟩ | ⟨idle, -, -⟩ | ⟨a, rest, u, -, hact, ⟨idle, -⟩ | ⟨-, turn, rfl⟩⟩ := step_cases h
  · exact .inl (exec_completed hexec).1
  · exact absurd (busy.symm.trans idle) Phase.noConfusion
  · exact absurd (busy.symm.trans idle) Phase.noConfusion
  · refine ((hostAct_effect hact).idle_or_in_flight busy).imp_right fun ⟨busy', hdelay⟩ => ⟨busy', ?_⟩
    exact (congrArg (· + 1) hdelay).trans (Nat.sub_add_cancel turn)

/-- With well-formed actions the block is IDLE again within the latency left and one step more, by recursion on that
latency. -/
theorem idle_after_latency {op : Instr} (s : State) (busy : s.phase = .busy op) (ok : s.ProgramOk) :
    ∃ (n : Nat) (t : State), n ≤ s.delay + 1 ∧ stepN n s = .next t ∧ t.phase = .idle := by
  obtain ⟨s', hstep, hsubset⟩ := step_progress ok
  obtain idle | ⟨busy', hdelay⟩ := step_idle_or_in_flight busy hstep
  · exact ⟨1, s', Nat.le_add_left 1 _, stepN_succ hstep 0, idle⟩
  · obtain ⟨n, t, hn, hrun, idle⟩ := idle_after_latency s' busy' fun a ha => ok a (hsubset ha)
    exact ⟨n + 1, t, by omega, (stepN_succ hstep n).trans hrun, idle⟩
termination_by s.delay

/-- Settles O40: every step while BUSY goes on, and ends the command or uses up 1 of its latency. -/
theorem completionIsCertain : Obligations.CompletionIsCertain := fun s _ => idle_after_latency s

/-! ### Reset (R230, R231) -/

/-- R230: the STATUS of a reset reads 0. -/
theorem Status.zero_toWord : Status.zero.toWord = 0 := rfl

/-- R231: with reset at the head of HOST's program and HOST's turn come, the step is the reset, also while BUSY. -/
theorem step_reset {s : State} {rest : List HostAction} (h : s.program = .reset :: rest)
    (turn : s.phase = .idle ∨ 0 < s.delay) : ∃ u, u.program = rest ∧ step s = .next (takeReset u) := by
  cases hphase : s.phase with
  | idle => exact ⟨_, rfl, (step_idle hphase).trans (hostStep_cons h)⟩
  | busy op =>
    have turn : 0 < s.delay := turn.resolve_left fun idle => Phase.noConfusion (hphase.symm.trans idle)
    exact ⟨_, rfl, step_busy_host hphase turn h⟩

/-- Settles O34: the step is a reset, which leaves the block IDLE, where ENGINE has no step. -/
theorem resetAbandonsAndClears : Obligations.ResetAbandonsAndClears := by
  intro s rest program turn
  obtain ⟨u, hrest, hstep⟩ := step_reset program turn
  exact ⟨takeReset u, hstep, rfl, Status.zero_toWord, rfl, rfl, hrest, step_idle rfl⟩

/-- Settles O38: the machine right after reset is IDLE with STATUS 0 and OUT_LEN 0, and HOST's program is empty. -/
theorem resetMeetsInvariants : Obligations.ResetMeetsInvariants := by
  obtain ⟨phase, -, -, outLen⟩ := resetState
  have status : State.reset.status = .zero := rfl
  refine ⟨?control, ?output, ?program⟩
  case control => constructor <;> simp [phase, status, Status.zero]
  case output => exact ⟨.inl outLen, fun h24 => absurd (outLen.symm.trans h24) (by decide)⟩
  case program => exact List.forall_mem_nil _

end Sys2Proof.Machine
end
